-- ==== Sys2Proof/Word.lean ====
section
/-! DEFINITION. The two word types of the spec: a byte and a 16-bit settings word (00_scope.md section 5,
10_state.md R26). Bit 0 is the least significant bit; everything is unsigned. -/

namespace Sys2Proof

/-- A byte: 8 bits (00_scope.md section 5). -/
abbrev Byte := BitVec 8

/-- A settings word: any 16-bit value (10_state.md R26). -/
abbrev SettingsWord := BitVec 16

end Sys2Proof
end

