-- ==== Sys2Proof/Config.lean ====
section
/-! DEFINITION. The parameters the source fixes (00_scope.md R8) and the values the spec leaves open.
An open value is an `opaque` constant without a body: no proof can see what it is. -/

namespace Sys2Proof.Config

/-- `VALUE_MASK` of R8: the mask applied to ENCSW's value input (30_encoding.md R59). -/
def valueMask : Nat := 0x0FFF

/-- `READ_LEN` of R8: bytes of one full device read. -/
def readLen : Nat := 24

/-- `GROUP_BYTES` of R8: bytes per channel in the read buffer (20_memory.md R33). -/
def groupBytes : Nat := 6

/-- `WORD_OFFSET` of R8: offset of the settings word's high byte inside a group. -/
def wordOffset : Nat := 1

/-- `BASE_SW` of R8: command base of the sequential write (30_encoding.md R53). -/
def baseSw : Byte := 0x40

/-- `BASE_EE` of R8: command byte of the EEPROM commit (30_encoding.md R56). -/
def baseEe : Byte := 0x50

/-- `BIT0_ONE_MEANS_IMMEDIATE` (92_eei_decisions.md D20, 90_conflicts.md C1): whether the DEVICE takes latch bit 1
as "write at once". The source contradicts itself, so the value is not known here (log 20). -/
opaque bit0OneMeansImmediate : Bool

/-- Factory contents of a channel's EEPROM, by channel index: unspecified (10_state.md R29, 91 N6; log 19). -/
opaque factoryWord : Nat → SettingsWord

/-- Free value number `n` for the status header of the channel with this index (91 N4, 93 U6; log 25). -/
opaque freeHeader : Nat → Nat → Byte

/-- Free value number `n` for the three shadow bytes of the channel's group in a read-back (93 U7; log 25). -/
opaque freeShadow : Nat → Nat → BitVec 24

/-- Free value number `n` for the channel's input register (93 U9; log 22, 23). -/
opaque freeInputReg : Nat → Nat → SettingsWord

/-- Free value number `n` for the word in effect at the channel's output (93 U4, U9; log 22, 23). -/
opaque freeOutput : Nat → Nat → SettingsWord

/-- Free value number `n` for the channel's EEPROM word (93 U4; log 23). -/
opaque freeEeprom : Nat → Nat → SettingsWord

/-- Free value number `n` for the channel's pending value (10_state.md R29; log 19, 22, 23). -/
opaque freePending : Nat → Nat → Option SettingsWord

/-- Free choice number `n`: does a value held for the latch signal already show in the input register (log 21). -/
opaque heldShows : Nat → Bool

/-- Free choice number `n`: does a write that takes effect at once drop an older pending value (log 21). -/
opaque immediateDropsPending : Nat → Bool

end Sys2Proof.Config
end

