-- ==== Sys2Proof/Syntax.lean ====
section
/-! DEFINITION. The closed enumerations that cross the ports (10_state.md section 2), the Channel Setting, the five
operations (one constructor of `Instr` per row of spec/opcode_table.json) and the units that evaluate them.
Code points are NOT the order of constructors here: they are written out in Decode.lean (70 R148). -/

namespace Sys2Proof

/-- Channel: "one of four identifiers (A, B, C, D)" (10_state.md R18). -/
inductive Channel where
  | A | B | C | D
deriving DecidableEq, Repr

/-- Reference Source: `VDD` or `Internal` (10_state.md R20). -/
inductive Reference where
  | vdd | internal
deriving DecidableEq, Repr

/-- Gain: `1x` or `2x` (10_state.md R21). -/
inductive Gain where
  | x1 | x2
deriving DecidableEq, Repr

/-- Power-Down Mode (10_state.md R22). -/
inductive PowerDown where
  | normal | groundViaDiv1k | groundViaDiv100k | groundViaDiv500k
deriving DecidableEq, Repr

/-- The Channel Setting (10_state.md R24). `udac` is the Latch-Now flag; `none` when the caller gives none. -/
structure Setting where
  value : Nat
  ref   : Reference
  pd    : PowerDown
  gain  : Gain
  udac  : Option Bool
deriving DecidableEq, Repr

/-- The four fields DECW returns (41 R81, R84). -/
structure Fields where
  ref   : Reference
  pd    : PowerDown
  gain  : Gain
  value : BitVec 12
deriving DecidableEq, Repr

/-- The units of the block, as the environment selects them (10_state.md R13, 30_encoding.md R68). COMMIT is the
pseudo-operation of 43 R104. -/
inductive Op where
  | encsw | decw | extw | encee | commit
deriving DecidableEq, Repr

/-- An operation with its operands (30_encoding.md R70). `RB`, the read buffer, is an input port that stands in
State (20_memory.md R31), so EXTW and COMMIT do not carry it. `value` is the unbounded natural number that
92 D3 allows (log 7); an absent `udac` is `none` (10_state.md R24). -/
inductive Instr where
  | encsw (chan : Channel) (value : Nat) (ref : Reference) (pd : PowerDown) (gain : Gain) (udac : Option Bool)
  | decw (rawHigh rawLow : Byte)
  | extw (chan : Channel)
  | encee (wordA wordB wordC wordD : SettingsWord)
  | commit
deriving DecidableEq, Repr

/-- The unit an operation is evaluated by. -/
def Instr.op : Instr → Op
  | .encsw .. => .encsw
  | .decw .. => .decw
  | .extw _ => .extw
  | .encee .. => .encee
  | .commit => .commit

end Sys2Proof
end

