-- ==== Sys2Proof/WellFormed.lean ====
section
/-! DEFINITION. Which operations are well formed: their operands are what the table's encoding can carry, a valid
Channel Setting (10_state.md R23, 40 R80). ENCSW runs on every `value` all the same, since it masks
(30_encoding.md R59): well-formedness is a matter of `encode`, never a ground to refuse. The other operands are closed
enumerations and bit fields, dense in their codes (10_state.md R27), so nothing else can be ill formed (40 R78). -/

namespace Sys2Proof

/-- "unsigned integer, valid range 0–4095 (12 bits)" (10_state.md R23). -/
def Instr.wellFormed : Instr → Bool
  | .encsw _ value _ _ _ _ => decide (value ≤ 4095)
  | .decw _ _ => true
  | .extw _ => true
  | .encee _ _ _ _ => true
  | .commit => true

end Sys2Proof
end

