-- ==== Sys2Proof/Decode.lean ====
section
/-! DEFINITION. Code points, the bit fields of the formats (30_encoding.md R53 to R58), the decoder from the bytes
of a format to an operation, the encoder back, the classifier of frames (R64), and the reading of the host's table words.

Which unit the bytes are for is NOT in the bytes (30_encoding.md R68, 92 D13): the decoder takes it beside them. -/

namespace Sys2Proof

/-! ### Code points, each an explicit number (10_state.md R18, R20, R21, R22; 70 R148; log 8) -/

/-- A 0, B 1, C 2, D 3 (10_state.md R18, 92 D4). -/
def Channel.code : Channel → BitVec 2
  | .A => 0
  | .B => 1
  | .C => 2
  | .D => 3

/-- The channel with this index; every 2-bit value is one (R18). -/
def Channel.ofCode (c : BitVec 2) : Channel :=
  if c = 0 then .A else if c = 1 then .B else if c = 2 then .C else .D

/-- VDD 0, Internal 1 (10_state.md R20, 92 D5). -/
def Reference.code : Reference → BitVec 1
  | .vdd => 0
  | .internal => 1

/-- The reference source with this code. -/
def Reference.ofCode (c : BitVec 1) : Reference :=
  if c = 0 then .vdd else .internal

/-- 1x 0, 2x 1 (10_state.md R21, 92 D5). -/
def Gain.code : Gain → BitVec 1
  | .x1 => 0
  | .x2 => 1

/-- The gain with this code. -/
def Gain.ofCode (c : BitVec 1) : Gain :=
  if c = 0 then .x1 else .x2

/-- Normal 0, GroundViaDiv1k 1, GroundViaDiv100k 2, GroundViaDiv500k 3 (10_state.md R22, 92 D6). -/
def PowerDown.code : PowerDown → BitVec 2
  | .normal => 0
  | .groundViaDiv1k => 1
  | .groundViaDiv100k => 2
  | .groundViaDiv500k => 3

/-- The power-down mode with this code. -/
def PowerDown.ofCode (c : BitVec 2) : PowerDown :=
  if c = 0 then .normal else if c = 1 then .groundViaDiv1k else if c = 2 then .groundViaDiv100k else .groundViaDiv500k

/-! ### Words and bytes -/

/-- `{rawHigh, rawLow}`: the byte at the lower index is the more significant (20_memory.md R36). -/
def wordOfBytes (rawHigh rawLow : Byte) : SettingsWord := rawHigh ++ rawLow

/-- `word[15:8]` (30_encoding.md R61). -/
def highByte (w : SettingsWord) : Byte := w.extractLsb' 8 8

/-- `word[7:0]` (30_encoding.md R61). -/
def lowByte (w : SettingsWord) : Byte := w.extractLsb' 0 8

/-- WORD `rppgvvvvvvvvvvvv` taken apart (30_encoding.md R54). -/
def wordFields (w : SettingsWord) : Fields where
  ref := .ofCode (w.extractLsb' 15 1)
  pd := .ofCode (w.extractLsb' 13 2)
  gain := .ofCode (w.extractLsb' 12 1)
  value := w.extractLsb' 0 12

/-- WORD put together from its pattern `rppgvvvvvvvvvvvv` (30_encoding.md R54). -/
def fieldsWord (f : Fields) : SettingsWord := f.ref.code ++ f.pd.code ++ f.gain.code ++ f.value

/-- SWCMD `01000ccu` put together from its pattern (30_encoding.md R53). -/
def swcmd (chan : Channel) (udac : Bool) : Byte := (0b01000 : BitVec 5) ++ chan.code ++ BitVec.ofBool udac

/-- The latch-now flag, 0 when the caller gives none (10_state.md R24, 92 D8; log 9). -/
def udacOrDefault (udac : Option Bool) : Bool := udac.getD false

/-! ### The classifier of frames (30_encoding.md R64, R65) -/

/-- What byte 0 of a frame says of it. -/
inductive FrameKind where
  | sequentialWrite (chan : Channel) (udac : Bool)
  | eepromCommit
  | notProduced
deriving DecidableEq, Repr

/-- `b & 0xF8 == 0x40`: an SWFRAME; `b == 0x50`: an EEFRAME; otherwise "not produced by this block" (R64). -/
def classify (b : Byte) : FrameKind :=
  if b &&& 0xF8 = 0x40 then .sequentialWrite (.ofCode (b.extractLsb' 1 2)) (b.getLsbD 0)
  else if b = 0x50 then .eepromCommit
  else .notProduced

/-- The length of the frame, told by its command byte (30_encoding.md R50). -/
def FrameKind.length? : FrameKind → Option Nat
  | .sequentialWrite _ _ => some 3
  | .eepromCommit => some 9
  | .notProduced => none

/-! ### The decoder -/

/-- Why bytes are not an operation of the unit they are presented to. -/
inductive DecodeError where
  /-- Fewer bytes than the format has: some input port is not driven (10_state.md R30). -/
  | inputAbsent
  /-- More bytes than the format has (30_encoding.md R49: one fixed length). -/
  | tooManyBytes
  /-- Byte 0 is none of the unit's command bytes: "not produced by this block" (30_encoding.md R64, R65). -/
  | notProduced (command : Byte)
  /-- A channel index that is no 2-bit value: outside its enumeration, refused (40 R78, 93 U1). -/
  | channelOutOfRange (index : Byte)
deriving DecidableEq, Repr

/-- The answer for a byte sequence that has not the format's length. -/
def wrongLength (want : Nat) (bytes : List Byte) : Except DecodeError Instr :=
  if bytes.length < want then .error .inputAbsent else .error .tooManyBytes

/-- ENCSW from the SWFRAME it produces, `01000ccu rppgvvvv vvvvvvvv` (30_encoding.md R55). -/
def decodeEncsw : List Byte → Except DecodeError Instr
  | [b0, b1, b2] =>
    match classify b0 with
    | .sequentialWrite chan udac =>
      let f := wordFields (wordOfBytes b1 b2)
      .ok (.encsw chan f.value.toNat f.ref f.pd f.gain (some udac))
    | _ => .error (.notProduced b0)
  | bytes => wrongLength 3 bytes

/-- DECW from the WORD it consumes, high byte first (30_encoding.md R54). -/
def decodeDecw : List Byte → Except DecodeError Instr
  | [rawHigh, rawLow] => .ok (.decw rawHigh rawLow)
  | bytes => wrongLength 2 bytes

/-- EXTW from its `chan` port, one byte holding the 2-bit index; the table gives it no bits (log 5). -/
def decodeExtw : List Byte → Except DecodeError Instr
  | [c] => if c.toNat < 4 then .ok (.extw (.ofCode (c.extractLsb' 0 2))) else .error (.channelOutOfRange c)
  | bytes => wrongLength 1 bytes

/-- ENCEE from the EEFRAME it produces: `0x50`, then four words, each high byte first (30_encoding.md R57). -/
def decodeEncee : List Byte → Except DecodeError Instr
  | [b0, a1, a0, b1, b0', c1, c0, d1, d0] =>
    match classify b0 with
    | .eepromCommit => .ok (.encee (wordOfBytes a1 a0) (wordOfBytes b1 b0') (wordOfBytes c1 c0) (wordOfBytes d1 d0))
    | _ => .error (.notProduced b0)
  | bytes => wrongLength 9 bytes

/-- COMMIT has no operand but RB, which stands in State (log 5). -/
def decodeCommit : List Byte → Except DecodeError Instr
  | [] => .ok .commit
  | _ :: _ => .error .tooManyBytes

/-- The operation that bytes presented to a unit stand for: total, rejecting by name. -/
def decode (op : Op) (bytes : List Byte) : Except DecodeError Instr :=
  match op with
  | .encsw => decodeEncsw bytes
  | .decw => decodeDecw bytes
  | .extw => decodeExtw bytes
  | .encee => decodeEncee bytes
  | .commit => decodeCommit bytes

/-! ### The encoder, from the same patterns -/

/-- The bytes of an operation. ENCSW's `value` is cut to its 12 bits (30_encoding.md R59). -/
def encode : Instr → List Byte
  | .encsw chan value ref pd gain udac =>
    let w := fieldsWord ⟨ref, pd, gain, BitVec.ofNat 12 value⟩
    [swcmd chan (udacOrDefault udac), highByte w, lowByte w]
  | .decw rawHigh rawLow => [rawHigh, rawLow]
  | .extw chan => [(0 : BitVec 6) ++ chan.code]
  | .encee a b c d =>
    [0x50, highByte a, lowByte a, highByte b, lowByte b, highByte c, lowByte c, highByte d, lowByte d]
  | .commit => []

/-- The operation that an operation's bytes stand for: `value` reduced to its 12 bits (40 R74) and the latch flag
written out (10_state.md R24). -/
def Instr.canonical : Instr → Instr
  | .encsw chan value ref pd gain udac => .encsw chan (value % 4096) ref pd gain (some (udacOrDefault udac))
  | .decw rawHigh rawLow => .decw rawHigh rawLow
  | .extw chan => .extw chan
  | .encee a b c d => .encee a b c d
  | .commit => .commit

/-! ### Words of the opcode table, as the host numbers them (log 6) -/

/-- The first `n` bytes of the number `w`, the least significant byte first. -/
def bytesOfNat : Nat → Nat → List Byte
  | 0, _ => []
  | n + 1, w => BitVec.ofNat 8 w :: bytesOfNat n (w / 256)

/-- How many bytes a table word of `nbits` bits has: where the table gives only the command byte its bits, the length
the command byte tells (30_encoding.md R50); where it gives none and every bit is 0, RDBUF's, the one format of more
than two bytes in which no bit is fixed (R58). -/
def tableLength (nbits w : Nat) : Nat :=
  if nbits ≤ 8 then
    if BitVec.ofNat 8 w = 0 then 24 else ((classify (BitVec.ofNat 8 w)).length?).getD 1
  else (nbits + 7) / 8

/-- What a table word presents to the block: the unit, its operand bytes, and the read buffer to drive if the word is
an RDBUF image. The five formats have five different lengths (30_encoding.md R49), so the length tells the unit; the
RDBUF row gives `chan` no bits, which are then 0, channel A. COMMIT's row has ENCEE's words and reads as ENCEE. -/
structure TableWord where
  op     : Op
  bytes  : List Byte
  buffer : Option (List Byte)
deriving DecidableEq, Repr

/-- The table word `w` of `nbits` bits. A length that no format has is left to ENCSW's decoder to reject. -/
def tableWord (nbits w : Nat) : TableWord :=
  let bytes := bytesOfNat (tableLength nbits w) w
  match bytes.length with
  | 2 => ⟨.decw, bytes, none⟩
  | 9 => ⟨.encee, bytes, none⟩
  | 24 => ⟨.extw, [0], some bytes⟩
  | _ => ⟨.encsw, bytes, none⟩

/-- The operation this decoder reads from the bits of an opcode-table row. -/
def decodeTableWord (nbits w : Nat) : Option Instr :=
  let t := tableWord nbits w
  (decode t.op t.bytes).toOption

end Sys2Proof
end

