-- ==== Sys2Proof/Machine/State.lean ====
section
/-! DEFINITION. The state of the block's ports and of its environment, the reasons a step can stop, and the state at
the start. The block itself holds nothing (10_state.md R11): what stands here of it are its ports (R13). The
environment's state is the table of 10_state.md R28. -/

namespace Sys2Proof.Machine

/-! ### The read buffer -/

/-- The read buffer as an address space (20_memory.md R31): its own length, and the bytes that are not
`Memory.unlisted` (Ops.lean), by rising address. -/
structure Memory where
  len   : Nat
  cells : List Host.Cell
deriving DecidableEq, Repr

/-! ### The output ports -/

/-- The result of an operation that can fail: its outputs, or `InvalidBufferLength` with the length it refused
(60_exceptions.md R109, R111; log 10). No data stands beside an error. -/
inductive CodecResult (α : Type) where
  | ok (outputs : α)
  | invalidBufferLength (len : Nat)
deriving DecidableEq, Repr

/-- The output ports of the units (10_state.md R13). `none`: the port holds no value (R30; log 3). -/
structure Outputs where
  encsw  : Option (List Byte)
  decw   : Option Fields
  extw   : Option (CodecResult (Byte × Byte))
  encee  : Option (List Byte)
  commit : Option (CodecResult (List Byte))
deriving DecidableEq, Repr

/-- What the environment drives at the input of the byte multiplexer (43 R102): the unit whose frame it takes and the byte
position. The position "is an input of that presentation, not a counter the block owns" (10_state.md R14, 92 D2). -/
structure Selection where
  unit     : Op
  position : Nat
deriving DecidableEq, Repr

/-! ### The environment: session, transport, device -/

/-- One thing for each of the four channels, in the fixed order A, B, C, D (10_state.md R18). -/
structure PerChannel (α : Type) where
  A : α
  B : α
  C : α
  D : α
deriving DecidableEq, Repr

/-- What `open` establishes and every later transaction names: the bus transport it was passed (`busHandle`, 70 R134;
"never implied by process-wide global state", R141) and the handle that this transport gave (R132, R140). The numbers are
names only (log 33). -/
structure Connection where
  bus    : Nat
  handle : Nat
deriving DecidableEq, Repr

/-- The session's connection state, with the connection it owns (10_state.md R28, 70 R133, R140). -/
inductive Link where
  | disconnected
  | connected (conn : Connection)
deriving DecidableEq, Repr

/-- A bus transaction: `open(address)` of the transport `bus`, `read(handle, length)` and `write(handle, bytes)` of the
connection's transport (70 R132). -/
inductive Transaction where
  | openBus (bus : Nat) (address : Nat)
  | read (conn : Connection) (length : Nat)
  | write (conn : Connection) (bytes : List Byte)
deriving DecidableEq, Repr

/-- A finished bus transaction and whether it succeeded. -/
structure TraceEntry where
  transaction : Transaction
  succeeded   : Bool
deriving DecidableEq, Repr

/-- The procedure in progress and the transaction it waits for (70 R134 to R137). -/
inductive Activity where
  /-- No procedure is in progress. -/
  | idle
  /-- `open` waits for `open(address)` of the transport it was passed. -/
  | opening (address : Nat) (bus : Nat)
  /-- `open` waits for its seeding read of 24 bytes. -/
  | seeding (conn : Connection)
  /-- `setChannel` waits for the write of its 3-byte frame. -/
  | settingChannel (conn : Connection) (chan : Channel) (setting : Setting) (frame : List Byte)
  /-- `saveToEeprom` waits for its read of 24 bytes. -/
  | saveReading (conn : Connection)
  /-- `saveToEeprom` waits for the write of its 9-byte frame. -/
  | saveWriting (conn : Connection) (frame : List Byte)
deriving DecidableEq, Repr

/-- The session's error kinds (60_exceptions.md R110, R116; 92 D16, D18; log 15). -/
inductive SessionError where
  | connectionError
  | readError
  | writeErrorSetChannel
  | writeErrorEepromCommit
  | invalidBufferLength (len : Nat)
deriving DecidableEq, Repr

/-- What a procedure returned (60_exceptions.md R109). -/
inductive CallResult where
  | success
  | failed (error : SessionError)
deriving DecidableEq, Repr

/-- An entry of the advisory cache (70 R139; log 16). -/
structure CacheEntry where
  value : Nat
  ref   : Reference
  pd    : PowerDown
  gain  : Gain
deriving DecidableEq, Repr

/-- The Device Session (10_state.md R28, 70 R133). DESIGN CHOICE (log 16): the cache has an entry or none for each channel
by itself, so that an empty entry is distinguishable per channel, which the spec leaves open (91 N14). -/
structure Session where
  link     : Link
  activity : Activity
  cache    : PerChannel (Option CacheEntry)
  result   : Option CallResult
  trace    : List TraceEntry
deriving DecidableEq, Repr

/-- What the device holds for one channel (10_state.md R28), and `output`, the settings word in effect at the channel's
output, which a pending value has not reached (R28 "a pending value not yet at the output", 70 R142; log 35). It is a word,
no voltage (91 N20). -/
structure DeviceChannel where
  inputReg : SettingsWord
  eeprom   : SettingsWord
  pending  : Option SettingsWord
  header   : Byte
  output   : SettingsWord
deriving DecidableEq, Repr

/-- The device: four channels. -/
abbrev Device := PerChannel DeviceChannel

/-! ### What the environment does -/

/-- A call of one of the session's procedures (30_encoding.md R69, 70 R134 to R136). -/
inductive Call where
  /-- `open(address, busHandle)`: the bus transport is always passed (70 R134, R141). -/
  | openSession (address : Nat) (bus : Nat)
  | setChannel (chan : Channel) (setting : Setting)
  | saveToEeprom
deriving DecidableEq, Repr

/-- The answer to the outstanding transaction of the transport that it names (70 R132), a free choice of the environment
(60_exceptions.md R128; log 12). -/
inductive Answer where
  /-- `open` succeeded; the transport gives this handle. -/
  | opened (handle : Nat)
  /-- `open` failed: the device is absent or unreachable. -/
  | deviceNotFound
  /-- `write` succeeded. -/
  | written
  /-- `read` delivered these bytes, whatever they are. -/
  | delivered (bytes : List Byte)
  /-- `read` delivered the device's own 24-byte buffer, laid out as 20_memory.md R33 says. -/
  | deviceRead
  /-- `write` or `read` failed. -/
  | transportError
  /-- The transport never answers (60_exceptions.md R122). -/
  | never
deriving DecidableEq, Repr

/-- One thing the environment does to the machine (log 4). -/
inductive Input where
  /-- It presents operand bytes, in the format of the opcode table, to a unit (30_encoding.md R68). -/
  | present (op : Op) (bytes : List Byte)
  /-- It evaluates an operation with these operands at its ports. -/
  | evaluate (i : Instr)
  /-- It drives the RB port with a byte sequence of any length (20_memory.md R31). -/
  | driveBuffer (bytes : List Byte)
  /-- It drives the input of the byte multiplexer with a unit and a byte position (43 R102). -/
  | selectByte (op : Op) (position : Nat)
  /-- It has a unit's frame put out one byte at a time (30_encoding.md R52). -/
  | presentFrame (op : Op)
  /-- It calls a procedure of the session. -/
  | call (c : Call)
  /-- The transport answers the outstanding transaction. -/
  | answer (a : Answer)
  /-- It gives the external latch signal to these channels (60_exceptions.md R118; log 26). -/
  | latch (channels : PerChannel Bool)
  /-- The device is powered up anew (70 R130). -/
  | powerUp
  /-- A frame of another agent reaches the device (70 R144, R147). -/
  | foreignFrame (bytes : List Byte)
deriving DecidableEq, Repr

/-! ### The state -/

/-- Everything the spec gives the machine, and three fields of the model's own: `inputs`, what the environment does
next, oldest first (log 4), `presented`, the environment's record of the bytes it was given by the last serial
presentation (30_encoding.md R52; log 29), and `fresh`, the counter free values are drawn with (log 28). `rb` and `select`
are input ports, `none` while nobody drives them (10_state.md R30). -/
structure State where
  inputs     : List Input
  rb         : Option Memory
  select     : Option Selection
  out        : Outputs
  presented  : List Byte
  session    : Session
  device     : Device
  fresh      : Nat
deriving DecidableEq, Repr

/-! ### Why a step stops -/

/-- The machine's faults. The block has none: its one error is a result (60_exceptions.md R109, R128). -/
inductive Fault where
  /-- Raised when the environment's transport never answers the outstanding transaction: the session waits for
  ever (60_exceptions.md R122, 93 U14). A stuck state; safe. -/
  | transportHang
deriving DecidableEq, Repr

/-- What the model gives no meaning. -/
inductive Refusal where
  /-- Raised by exec's arm of an instruction without a meaning: none is left. Safe. -/
  | notModelled (mnemonic : String)
  /-- Raised by the step when the environment does nothing (log 31). Safe. -/
  | nothingPresented
  /-- Raised by EXTW and COMMIT when nobody drives the RB port (10_state.md R30, 93 U17). Safe. -/
  | inputAbsent (port : String)
  /-- Raised by the step for presented bytes the decoder rejects (30_encoding.md R64, R65; 40 R78). Safe. -/
  | undecodable (why : DecodeError)
  /-- Raised by `presentFrame` when the unit has put out no frame (10_state.md R30, 92 D11, 93 U17; log 29). Safe. -/
  | frameAbsent
  /-- Raised by `setChannel` and `saveToEeprom` on a `Disconnected` session (93 U16, 91 N13; log 13). Safe. -/
  | notConnected
  /-- Raised by `open` on a `Connected` session: the spec gives no such transition (70 R133; log 13). Safe. -/
  | alreadyConnected
  /-- Raised by a call while a procedure is in progress: single-threaded (20_memory.md R45, R46; log 13). Safe. -/
  | sessionBusy
  /-- Raised by an answer that no outstanding transaction can have (70 R132; log 12). Safe. -/
  | answerMismatch
  /-- Raised by a foreign frame for which the spec gives no device reaction (91 N9; log 30). Safe. -/
  | unknownFrame
deriving DecidableEq, Repr

/-! ### The start -/

/-- Output ports that hold no value (10_state.md R30). -/
def Outputs.undriven : Outputs where
  encsw := none
  decw := none
  extw := none
  encee := none
  commit := none

/-- A channel of the device at the start: its input register loaded from the EEPROM shadow and in effect (log 35); the
factory contents are unspecified, as are a pending value and the header (10_state.md R29; log 19). -/
def DeviceChannel.start (index : Nat) : DeviceChannel where
  inputReg := Config.factoryWord index
  eeprom := Config.factoryWord index
  pending := Config.freePending 0 index
  header := Config.freeHeader 0 index
  output := Config.factoryWord index

/-- The session at the start: `Disconnected`, cache empty (10_state.md R29), nothing called, trace empty. -/
def Session.start : Session where
  link := .disconnected
  activity := .idle
  cache := ⟨none, none, none, none⟩
  result := none
  trace := []

/-- The start: the block has nothing to reset (70 R129); no port is driven; the environment is as 10_state.md R29
says. The free values numbered 0 are the device's own at the start, so the counter stands at 1. -/
def State.reset : State where
  inputs := []
  rb := none
  select := none
  out := .undriven
  presented := []
  session := .start
  device := ⟨.start 0, .start 1, .start 2, .start 3⟩
  fresh := 1

end Sys2Proof.Machine
end

