-- ==== Sys2Proof/Machine/Ops.lean ====
section
/-! DEFINITION. The named operations over the state: reading and driving the read buffer, driving an output port
(an error result among them: the block's only "exception" is a result, 60_exceptions.md R109, R120, so there is no trap
entry and no return), the four-channel tuples, the session's bookkeeping. -/

namespace Sys2Proof.Machine

/-! ### The read buffer (20_memory.md) -/

/-- What an address below the length reads as when it is not listed (log 2). -/
def Memory.unlisted : Byte := 0

/-- The byte listed at an address, else `unlisted`. -/
def Memory.lookup : List Host.Cell → Nat → Byte
  | [], _ => Memory.unlisted
  | (k, b) :: rest, a => if k = a then b else Memory.lookup rest a

/-- `MemRead(addr, 1)`: `RB[addr]` (00_scope.md section 5). Used only below the length (20_memory.md R42). -/
def Memory.byteAt (m : Memory) (a : Nat) : Byte := Memory.lookup m.cells a

/-- Reading one byte: an address at or above the length does not exist (20_memory.md R31). -/
def Memory.read (m : Memory) (a : Nat) : Option Byte := if a < m.len then some (m.byteAt a) else none

/-- The cells of a byte sequence whose first byte has address `a`, in canonical form. -/
def Memory.cellsFrom (a : Nat) : List Byte → List Host.Cell
  | [] => []
  | b :: rest => if b = Memory.unlisted then Memory.cellsFrom (a + 1) rest else (a, b) :: Memory.cellsFrom (a + 1) rest

/-- The address space a byte sequence is (20_memory.md R31): byte `i` at address `i`, its length its own. -/
def Memory.ofBytes (bytes : List Byte) : Memory where
  len := bytes.length
  cells := Memory.cellsFrom 0 bytes

/-- The canonical form: addresses strictly rising and below the length, no listed byte equal to `unlisted`. -/
abbrev Memory.wf (m : Memory) : Prop :=
  m.cells.Pairwise (fun x y => x.1 < y.1) ∧ ∀ c ∈ m.cells, c.1 < m.len ∧ c.2 ≠ Memory.unlisted

/-- Reading one byte of the state's address space; nothing is read from a port nobody drives (10_state.md R30). -/
def State.readByte (s : State) (a : Nat) : Option Byte := s.rb.bind (·.read a)

/-- The environment drives the RB port. What EXTW and COMMIT put out for the buffer before says nothing of this one:
their output ports hold no value until they are evaluated again (log 3). -/
def State.driveBuffer (m : Memory) (s : State) : State :=
  { s with rb := some m, out := { s.out with extw := none, commit := none } }

/-! ### Output ports (10_state.md R13): each operation drives its own and no other -/

/-- ENCSW drives `frame`. -/
def State.putEncsw (frame : List Byte) (s : State) : State := { s with out := { s.out with encsw := some frame } }

/-- DECW drives its four fields. -/
def State.putDecw (f : Fields) (s : State) : State := { s with out := { s.out with decw := some f } }

/-- EXTW drives `rawHigh`, `rawLow`, `err`. -/
def State.putExtw (r : CodecResult (Byte × Byte)) (s : State) : State := { s with out := { s.out with extw := some r } }

/-- ENCEE drives `frame`. -/
def State.putEncee (frame : List Byte) (s : State) : State := { s with out := { s.out with encee := some frame } }

/-- COMMIT drives `frame` and `err`. -/
def State.putCommit (r : CodecResult (List Byte)) (s : State) : State := { s with out := { s.out with commit := some r } }

/-- The environment drives the input of the byte multiplexer (43 R102), which holds until it is driven anew. -/
def State.selectAt (op : Op) (position : Nat) (s : State) : State := { s with select := some ⟨op, position⟩ }

/-! ### Results that can be `InvalidBufferLength` -/

/-- The error ends the composition (43 R104). -/
def CodecResult.bind {α β : Type} (r : CodecResult α) (f : α → CodecResult β) : CodecResult β :=
  match r with
  | .ok a => f a
  | .invalidBufferLength n => .invalidBufferLength n

/-- The one check of the block: `raise InvalidBufferLength(len(RB))` exactly when `len(RB) != 24`, before any byte is
read (42 R92, 60_exceptions.md R111). -/
def requireFullRead {α : Type} (m : Memory) (outputs : α) : CodecResult α :=
  if m.len = Config.readLen then .ok outputs else .invalidBufferLength m.len

/-! ### Four-channel tuples -/

/-- The entry of a channel. -/
def PerChannel.get {α : Type} (p : PerChannel α) : Channel → α
  | .A => p.A
  | .B => p.B
  | .C => p.C
  | .D => p.D

/-- One channel's entry replaced, the others kept. -/
def PerChannel.set {α : Type} (p : PerChannel α) (c : Channel) (x : α) : PerChannel α :=
  match c with
  | .A => { p with A := x }
  | .B => { p with B := x }
  | .C => { p with C := x }
  | .D => { p with D := x }

/-- Every channel's entry computed from its name. -/
def PerChannel.tabulate {α : Type} (f : Channel → α) : PerChannel α := ⟨f .A, f .B, f .C, f .D⟩

/-! ### The session's bookkeeping (70 R134 to R137) -/

/-- The session goes on to wait for a transaction of this procedure; nothing is returned yet. -/
def State.begin (a : Activity) (s : State) : State :=
  { s with session := { s.session with activity := a, result := none } }

/-- The procedure in progress returns. -/
def State.finish (r : CallResult) (s : State) : State :=
  { s with session := { s.session with activity := .idle, result := some r } }

/-- A transaction is finished: it is added to the ordered trace. -/
def State.record (t : Transaction) (succeeded : Bool) (s : State) : State :=
  { s with session := { s.session with trace := s.session.trace ++ [⟨t, succeeded⟩] } }

/-- The cache entry of one channel takes a setting (70 R139). -/
def State.cacheEntry (c : Channel) (e : CacheEntry) (s : State) : State :=
  { s with session := { s.session with cache := s.session.cache.set c (some e) } }

/-- The session is connected, and owns this connection (70 R134 step 2, R140). -/
def State.connect (conn : Connection) (s : State) : State :=
  { s with session := { s.session with link := .connected conn } }

/-- The device changes; the free values numbered `s.fresh` are used up (log 28). -/
def State.changeDevice (f : Nat → Device → Device) (s : State) : State :=
  { s with device := f s.fresh s.device, fresh := s.fresh + 1 }

end Sys2Proof.Machine
end

