-- ==== Sys2Proof/Machine/Operands.lean ====
section
/-! DEFINITION. What the operations compute, from the pseudocode of their rules: masking, composition and splitting of
words (30_encoding.md R59 to R62), the buffer address (R63), and the five operations' outputs. -/

namespace Sys2Proof.Machine

/-- `value12 = value & 0x0FFF` (30_encoding.md R59). -/
def value12 (value : Nat) : BitVec 12 := BitVec.ofNat 12 (value &&& Config.valueMask)

/-- `word = (ref << 15) | (pd << 13) | (gain << 12) | value12` (30_encoding.md R60). -/
def composeWord (ref : Reference) (pd : PowerDown) (gain : Gain) (v : BitVec 12) : SettingsWord :=
  (ref.code.setWidth 16 <<< 15) ||| (pd.code.setWidth 16 <<< 13) ||| (gain.code.setWidth 16 <<< 12) ||| v.setWidth 16

/-- `cmd = 0x40 | (chan << 1) | udac` (30_encoding.md R62). -/
def swCommand (chan : Channel) (udac : Bool) : Byte :=
  Config.baseSw ||| (chan.code.setWidth 8 <<< 1) ||| (BitVec.ofBool udac).setWidth 8

/-- `rawHigh = word >> 8` (30_encoding.md R61). -/
def wordHigh (w : SettingsWord) : Byte := (w >>> 8).setWidth 8

/-- `rawLow = word & 0xFF` (30_encoding.md R61). -/
def wordLow (w : SettingsWord) : Byte := (w &&& 0x00FF).setWidth 8

/-- ENCSW's output: `[cmd, word[15:8], word[7:0]]` (40 R71). `gain` is passed through whatever `ref` is (R76), and the
latch bit is copied and nothing else (R77). -/
def swFrame (chan : Channel) (value : Nat) (ref : Reference) (pd : PowerDown) (gain : Gain) (udac : Bool) : List Byte :=
  let word := composeWord ref pd gain (value12 value)
  [swCommand chan udac, wordHigh word, wordLow word]

/-- The frame of a Channel Setting (40 R71, 10_state.md R24). -/
def settingFrame (chan : Channel) (x : Setting) : List Byte :=
  swFrame chan x.value x.ref x.pd x.gain (udacOrDefault x.udac)

/-- DECW's outputs: `ref <- word[15]`, `pd <- word[14:13]`, `gain <- word[12]`, `value <- word[11:0]` of
`word = {rawHigh, rawLow}` (41 R81). No device-side meaning is applied (R87). -/
def decodeWord (rawHigh rawLow : Byte) : Fields where
  ref := .ofCode (rawHigh.extractLsb' 7 1)
  pd := .ofCode (rawHigh.extractLsb' 5 2)
  gain := .ofCode (rawHigh.extractLsb' 4 1)
  value := rawHigh.extractLsb' 0 4 ++ rawLow

/-- `base(chan) = 6 * chan` (30_encoding.md R63). -/
def groupBase (chan : Channel) : Nat := Config.groupBytes * chan.code.toNat

/-- EXTW's outputs: the bytes at `base + 1` and `base + 2`, or the error (42 R89). -/
def extractWord (m : Memory) (chan : Channel) : CodecResult (Byte × Byte) :=
  requireFullRead m
    (m.byteAt (groupBase chan + Config.wordOffset), m.byteAt (groupBase chan + Config.wordOffset + 1))

/-- ENCEE's output: `0x50`, then the four words, each high byte first (43 R99). The words are not looked into (R101). -/
def eeFrame (wordA wordB wordC wordD : SettingsWord) : List Byte :=
  [Config.baseEe, wordHigh wordA, wordLow wordA, wordHigh wordB, wordLow wordB,
    wordHigh wordC, wordLow wordC, wordHigh wordD, wordLow wordD]

/-- COMMIT's outputs: EXTW for A, B, C, D, then ENCEE of the four results; an EXTW failure ends it (43 R104). -/
def commitFrame (m : Memory) : CodecResult (List Byte) :=
  (extractWord m .A).bind fun a =>
  (extractWord m .B).bind fun b =>
  (extractWord m .C).bind fun c =>
  (extractWord m .D).bind fun d =>
  .ok (eeFrame (wordOfBytes a.1 a.2) (wordOfBytes b.1 b.2) (wordOfBytes c.1 c.2) (wordOfBytes d.1 d.2))

end Sys2Proof.Machine
end

