-- ==== Sys2Proof/Machine/Flags.lean ====
section
/-! DEFINITION. The block has no flags and no condition codes (10_state.md R15). Its one status output is the `err` port
of EXTW (and of COMMIT), a function of the evaluation's result, not sticky and read by no operation. -/

namespace Sys2Proof.Machine

/-- The `err` port: 1 exactly on `InvalidBufferLength` (42 R92, 60_exceptions.md R111). -/
def CodecResult.err {α : Type} : CodecResult α → BitVec 1
  | .ok _ => 0
  | .invalidBufferLength _ => 1

/-- The data ports: on failure they carry no value (42 R92, 93 U8). -/
def CodecResult.data {α : Type} : CodecResult α → Option α
  | .ok a => some a
  | .invalidBufferLength _ => none

end Sys2Proof.Machine
end

