-- ==== Sys2Proof/Machine/DecodeChannelWord.lean ====
section
/-! DEFINITION. DECW, decode channel word (41_decode_channel_word.md). -/

namespace Sys2Proof.Machine

/-- DECW (41 R81): total, drives `ref`, `pd`, `gain`, `value`, changes nothing else. -/
def execDecw (rawHigh rawLow : Byte) (s : State) : Host.Outcome State Fault Refusal :=
  .next (s.putDecw (decodeWord rawHigh rawLow))

end Sys2Proof.Machine
end

