-- ==== Sys2Proof/Machine/EncodeEepromCommit.lean ====
section
/-! DEFINITION. ENCEE, encode EEPROM commit, and COMMIT, the commit path (43_encode_eeprom_commit.md). -/

namespace Sys2Proof.Machine

/-- ENCEE (43 R99): total, drives `frame`, changes nothing else. -/
def execEncee (wordA wordB wordC wordD : SettingsWord) (s : State) : Host.Outcome State Fault Refusal :=
  .next (s.putEncee (eeFrame wordA wordB wordC wordD))

/-- COMMIT (43 R104): reads RB, drives `frame` and `err`; no partial frame exists. With nobody driving RB there is
no result (10_state.md R30). -/
def execCommit (s : State) : Host.Outcome State Fault Refusal :=
  match s.rb with
  | none => .refused (.inputAbsent "RB")
  | some m => .next (s.putCommit (commitFrame m))

end Sys2Proof.Machine
end

