-- ==== Sys2Proof/Machine/EncodeSequentialWrite.lean ====
section
/-! DEFINITION. ENCSW, encode sequential write (40_encode_sequential_write.md). -/

namespace Sys2Proof.Machine

/-- ENCSW (40 R71): total, drives `frame`, changes nothing else. -/
def execEncsw (chan : Channel) (value : Nat) (ref : Reference) (pd : PowerDown) (gain : Gain) (udac : Option Bool)
    (s : State) : Host.Outcome State Fault Refusal :=
  .next (s.putEncsw (swFrame chan value ref pd gain (udacOrDefault udac)))

end Sys2Proof.Machine
end

