-- ==== Sys2Proof/Machine/ExtractChannelWord.lean ====
section
/-! DEFINITION. EXTW, extract channel word (42_extract_channel_word.md). -/

namespace Sys2Proof.Machine

/-- EXTW (42 R89): reads RB, drives `rawHigh`, `rawLow`, `err`. `InvalidBufferLength` is a result, not a fault
(60_exceptions.md R128). With nobody driving RB there is no result (10_state.md R30). -/
def execExtw (chan : Channel) (s : State) : Host.Outcome State Fault Refusal :=
  match s.rb with
  | none => .refused (.inputAbsent "RB")
  | some m => .next (s.putExtw (extractWord m chan))

end Sys2Proof.Machine
end

