-- ==== Sys2Proof/Machine/Dispatch.lean ====
section
/-! DEFINITION. One arm per operation of the opcode table. -/

namespace Sys2Proof.Machine

def exec (i : Instr) (s : State) : Host.Outcome State Fault Refusal :=
  match i with
  | .encsw chan value ref pd gain udac => Sys2Proof.Machine.execEncsw chan value ref pd gain udac s
  | .decw rawHigh rawLow => Sys2Proof.Machine.execDecw rawHigh rawLow s
  | .extw chan => Sys2Proof.Machine.execExtw chan s
  | .encee wordA wordB wordC wordD => Sys2Proof.Machine.execEncee wordA wordB wordC wordD s
  | .commit => Sys2Proof.Machine.execCommit s

end Sys2Proof.Machine
end

