-- ==== Sys2Proof/Machine/Device.lean ====
section
/-! DEFINITION. The device's stores, as far as the spec gives them (10_state.md R28, R44; 70 R130, R142; 93 U4, U9).
`n` is the number of the free values an operation draws (log 28). -/

namespace Sys2Proof.Machine

/-- The channel's index as a number (10_state.md R18). -/
def channelIndex (c : Channel) : Nat := c.code.toNat

/-- Whether the device takes this latch bit as "write at once": the open parameter of 92 D20 (90 C1; log 20). -/
def takesEffectAtOnce (udac : Bool) : Bool := udac == Config.bit0OneMeansImmediate

/-- A settings word reaches a channel's input register: at once, and then it is in effect at the output, or held for
the latch signal, and then the output "does not change until that signal comes" (10_state.md R24, 70 R142). Whether a held
word already shows in the input register, and whether a word that takes effect at once drops an older held one, is free
(log 21). DESIGN CHOICE (log 39): the channel's status header stays as it was; the spec is silent (91 N4). -/
def DeviceChannel.take (n : Nat) (udac : Bool) (w : SettingsWord) (d : DeviceChannel) : DeviceChannel :=
  if takesEffectAtOnce udac then
    { d with inputReg := w, output := w, pending := if Config.immediateDropsPending n then none else d.pending }
  else
    { d with inputReg := if Config.heldShows n then w else d.inputReg, pending := some w }

/-- A sequential write reaches exactly one channel's input register (20_memory.md R44, 40 R79). -/
def Device.sequentialWrite (chan : Channel) (udac : Bool) (w : SettingsWord) (n : Nat) (d : Device) : Device :=
  d.set chan ((d.get chan).take n udac w)

/-- An EEPROM commit reaches all four channels' EEPROM (20_memory.md R44, 43 R103) and leaves the input registers and
the pending values (log 24). -/
def Device.eepromCommit (words : PerChannel SettingsWord) (_n : Nat) (d : Device) : Device :=
  .tabulate fun c => { d.get c with eeprom := words.get c }

/-- After a failed 3-byte write the addressed channel's input register is unconstrained: old, new or neither
(93 U9), and so are its pending value and its output (log 22). -/
def Device.failedWrite (chan : Channel) (n : Nat) (d : Device) : Device :=
  d.set chan { d.get chan with
    inputReg := Config.freeInputReg n (channelIndex chan)
    pending := Config.freePending n (channelIndex chan)
    output := Config.freeOutput n (channelIndex chan) }

/-- "device state after a failed EEPROM write is unspecified" (60_exceptions.md R116, 93 U4; log 23). -/
def Device.failedCommit (n : Nat) (_d : Device) : Device :=
  .tabulate fun c =>
    { inputReg := Config.freeInputReg n (channelIndex c)
      eeprom := Config.freeEeprom n (channelIndex c)
      pending := Config.freePending n (channelIndex c)
      header := Config.freeHeader n (channelIndex c)
      output := Config.freeOutput n (channelIndex c) }

/-- Power-up: the EEPROM shadow is "loaded into the input register" (70 R130), the "immediately-effective" store
(00_scope.md section 6), so it is in effect at the output (DEDUCED, log 35); pending values and headers are
unspecified (10_state.md R29; log 27). -/
def Device.powerUp (n : Nat) (d : Device) : Device :=
  .tabulate fun c =>
    { inputReg := (d.get c).eeprom
      eeprom := (d.get c).eeprom
      pending := Config.freePending n (channelIndex c)
      header := Config.freeHeader n (channelIndex c)
      output := (d.get c).eeprom }

/-- The latch signal makes a channel apply its pending value, which then is in effect at the output (60_exceptions.md
R118, 70 R142). DESIGN CHOICE (log 39): its status header stays as it was; the spec is silent (91 N4). -/
def DeviceChannel.latch (d : DeviceChannel) : DeviceChannel :=
  match d.pending with
  | none => d
  | some w => { d with inputReg := w, output := w, pending := none }

/-- The latch signal given to some of the channels (log 26). -/
def Device.latch (channels : PerChannel Bool) (d : Device) : Device :=
  .tabulate fun c => if channels.get c then (d.get c).latch else d.get c

/-- What the device reports in its headers at a read: any value (93 U6; log 25). -/
def Device.refreshHeaders (n : Nat) (d : Device) : Device :=
  .tabulate fun c => { d.get c with header := Config.freeHeader n (channelIndex c) }

/-- One group of the read-back: header, input-register word high byte first, three shadow bytes of unknown layout
(20_memory.md R33, 30_encoding.md R58). -/
def Device.readGroup (n : Nat) (d : Device) (c : Channel) : List Byte :=
  let shadow := Config.freeShadow n (channelIndex c)
  [(d.get c).header, wordHigh (d.get c).inputReg, wordLow (d.get c).inputReg,
    shadow.extractLsb' 16 8, shadow.extractLsb' 8 8, shadow.extractLsb' 0 8]

/-- The whole read-back, groups in the order A, B, C, D (20_memory.md R33). -/
def Device.readBack (n : Nat) (d : Device) : List Byte :=
  d.readGroup n .A ++ d.readGroup n .B ++ d.readGroup n .C ++ d.readGroup n .D

/-- The device's reaction to a frame that reaches it: by its command byte (30_encoding.md R50, R64). For any other
bytes the spec gives none (91 N9). -/
def Device.receive (frame : List Byte) : Option (Nat → Device → Device) :=
  match frame with
  | [b0, b1, b2] =>
    match classify b0 with
    | .sequentialWrite chan udac => some (Device.sequentialWrite chan udac (wordOfBytes b1 b2))
    | _ => none
  | [b0, a1, a0, b1, b0', c1, c0, d1, d0] =>
    match classify b0 with
    | .eepromCommit =>
      some (Device.eepromCommit ⟨wordOfBytes a1 a0, wordOfBytes b1 b0', wordOfBytes c1 c0, wordOfBytes d1 d0⟩)
    | _ => none
  | _ => none

/-- A frame reaches the device; one the device's reaction to is not given is refused by name (log 30). -/
def State.receiveFrame (frame : List Byte) (s : State) : Host.Outcome State Fault Refusal :=
  match Device.receive frame with
  | some f => .next (s.changeDevice f)
  | none => .refused .unknownFrame

end Sys2Proof.Machine
end

