-- ==== Sys2Proof/Machine/Session.lean ====
section
/-! DEFINITION. The Device Session's procedures, one step per transaction answer (70_reset_and_hazards.md R133 to R139;
60_exceptions.md R112 to R116, R119, R123). -/

namespace Sys2Proof.Machine

/-! ### Calls: each begins a procedure by issuing its first transaction -/

/-- `open(address, busHandle)`: `open(address)` of the transport passed (70 R134 step 1, R141). -/
def startOpen (address bus : Nat) (s : State) : Host.Outcome State Fault Refusal :=
  match s.session.link with
  | .disconnected => .next (s.begin (.opening address bus))
  | .connected _ => .refused .alreadyConnected

/-- `setChannel(channel, setting)`: ENCSW, then one write of its frame (70 R135 steps 1, 2). -/
def startSetChannel (chan : Channel) (x : Setting) (s : State) : Host.Outcome State Fault Refusal :=
  match s.session.link with
  | .disconnected => .refused .notConnected
  | .connected conn =>
    .next ((s.putEncsw (settingFrame chan x)).begin (.settingChannel conn chan x (settingFrame chan x)))

/-- `saveToEeprom()`: one read of 24 bytes (70 R136 step 1). -/
def startSave (s : State) : Host.Outcome State Fault Refusal :=
  match s.session.link with
  | .disconnected => .refused .notConnected
  | .connected conn => .next (s.begin (.saveReading conn))

/-- A call of a procedure, with no other in progress (20_memory.md R45; log 13). -/
def startCall (c : Call) (s : State) : Host.Outcome State Fault Refusal :=
  match s.session.activity with
  | .idle =>
    match c with
    | .openSession address bus => startOpen address bus s
    | .setChannel chan x => startSetChannel chan x s
    | .saveToEeprom => startSave s
  | _ => .refused .sessionBusy

/-! ### Answers -/

/-- The bytes that an answer to a read delivers, and the state after the device has answered (log 12, 25). DESIGN CHOICE
(log 38): the device is read at the step that takes the answer. -/
def State.delivery (a : Answer) (s : State) : Option (List Byte × State) :=
  match a with
  | .delivered bytes => some (bytes, s)
  | .deviceRead => some (Device.readBack s.fresh (Device.refreshHeaders s.fresh s.device), s.changeDevice Device.refreshHeaders)
  | _ => none

/-- One channel's cache entry from the buffer: `DECW(EXTW(RB, k))` (70 R134 step 4). -/
def seedChannel (m : Memory) (s : State) (c : Channel) : State :=
  match extractWord m c with
  | .ok (hi, lo) =>
    let f := decodeWord hi lo
    ((s.putExtw (.ok (hi, lo))).putDecw f).cacheEntry c ⟨f.value.toNat, f.ref, f.pd, f.gain⟩
  | .invalidBufferLength n => s.putExtw (.invalidBufferLength n)

/-- The seeding of the cache, channels A, B, C, D in order (70 R134 step 4; log 17). -/
def seedCache (m : Memory) (s : State) : State :=
  [Channel.A, .B, .C, .D].foldl (seedChannel m) s

/-- `open` takes the transport's answer to its `open` (70 R134 steps 1 to 3, 60_exceptions.md R112). -/
def answerOpening (address bus : Nat) (a : Answer) (s : State) : Host.Outcome State Fault Refusal :=
  match a with
  | .opened handle =>
    .next (((s.record (.openBus bus address) true).connect ⟨bus, handle⟩).begin (.seeding ⟨bus, handle⟩))
  | .deviceNotFound => .next ((s.record (.openBus bus address) false).finish (.failed .connectionError))
  | .never => .fault .transportHang
  | _ => .refused .answerMismatch

/-- `open` takes the answer to its seeding read: best effort, a failed read fails nothing (70 R134 steps 3 to 5).
DESIGN CHOICE (log 36): 60_exceptions.md R110 does not specify what a failed transaction does to the device here; the
model leaves every field of the device as it was; and RB stays driven with what it was driven with (log 37). -/
def answerSeeding (conn : Connection) (a : Answer) (s : State) : Host.Outcome State Fault Refusal :=
  match s.delivery a with
  | some (bytes, s') =>
    let m := Memory.ofBytes bytes
    .next ((seedCache m ((s'.record (.read conn Config.readLen) true).driveBuffer m)).finish .success)
  | none =>
    match a with
    | .transportError => .next ((s.record (.read conn Config.readLen) false).finish .success)
    | .never => .fault .transportHang
    | _ => .refused .answerMismatch

/-- The device's share in a write that succeeded. The session's frames are all of the block's (30_encoding.md R64),
which the device takes. DESIGN CHOICE (log 38): it takes the frame at the step that takes the answer, and is as before
while the write is outstanding; the spec does not say when within the transaction (70 R135). -/
def State.deviceTakes (frame : List Byte) (s : State) : State :=
  match Device.receive frame with
  | some f => s.changeDevice f
  | none => s

/-- `setChannel` takes the answer to its write: the cache is updated on success only (70 R135 steps 3, 4;
60_exceptions.md R114, R123). -/
def answerSettingChannel (conn : Connection) (chan : Channel) (x : Setting) (frame : List Byte) (a : Answer)
    (s : State) : Host.Outcome State Fault Refusal :=
  match a with
  | .written =>
    .next ((((s.record (.write conn frame) true).deviceTakes frame).cacheEntry chan ⟨x.value, x.ref, x.pd, x.gain⟩).finish
      .success)
  | .transportError =>
    .next (((s.record (.write conn frame) false).changeDevice (Device.failedWrite chan)).finish
      (.failed .writeErrorSetChannel))
  | .never => .fault .transportHang
  | _ => .refused .answerMismatch

/-- `saveToEeprom` goes on with the buffer it read: COMMIT, then one write of its frame; on `InvalidBufferLength` it
stops with no write (70 R136 steps 2, 3; 60_exceptions.md R119; log 15). -/
def commitRead (conn : Connection) (m : Memory) (s : State) : State :=
  match commitFrame m with
  | .ok frame => (s.putCommit (.ok frame)).begin (.saveWriting conn frame)
  | .invalidBufferLength n => (s.putCommit (.invalidBufferLength n)).finish (.failed (.invalidBufferLength n))

/-- `saveToEeprom` takes the answer to its read: after a failed read no write is attempted (70 R136 step 1;
60_exceptions.md R115). DESIGN CHOICE (log 37): a failed read, which delivers no buffer (20_memory.md R43), leaves RB
driven with what it was driven with, or not driven. -/
def answerSaveReading (conn : Connection) (a : Answer) (s : State) : Host.Outcome State Fault Refusal :=
  match s.delivery a with
  | some (bytes, s') =>
    let m := Memory.ofBytes bytes
    .next (commitRead conn m ((s'.record (.read conn Config.readLen) true).driveBuffer m))
  | none =>
    match a with
    | .transportError => .next ((s.record (.read conn Config.readLen) false).finish (.failed .readError))
    | .never => .fault .transportHang
    | _ => .refused .answerMismatch

/-- `saveToEeprom` takes the answer to its write (70 R136 steps 3, 4; 60_exceptions.md R116). The cache is not
touched. -/
def answerSaveWriting (conn : Connection) (frame : List Byte) (a : Answer) (s : State) :
    Host.Outcome State Fault Refusal :=
  match a with
  | .written => .next (((s.record (.write conn frame) true).deviceTakes frame).finish .success)
  | .transportError =>
    .next (((s.record (.write conn frame) false).changeDevice Device.failedCommit).finish (.failed .writeErrorEepromCommit))
  | .never => .fault .transportHang
  | _ => .refused .answerMismatch

/-- The transport answers the outstanding transaction, which is of the connection that the procedure began with (70 R141). -/
def takeAnswer (a : Answer) (s : State) : Host.Outcome State Fault Refusal :=
  match s.session.activity with
  | .idle => .refused .answerMismatch
  | .opening address bus => answerOpening address bus a s
  | .seeding conn => answerSeeding conn a s
  | .settingChannel conn chan x frame => answerSettingChannel conn chan x frame a s
  | .saveReading conn => answerSaveReading conn a s
  | .saveWriting conn frame => answerSaveWriting conn frame a s

end Sys2Proof.Machine
end

