-- ==== Sys2Proof/Machine/Environment.lean ====
section
/-! DEFINITION. What one input of the environment does, and how a table word is put before the machine. -/

namespace Sys2Proof.Machine

/-- Bytes presented to a unit: decoded, then evaluated (30_encoding.md R68; log 4, 5). -/
def present (op : Op) (bytes : List Byte) (s : State) : Host.Outcome State Fault Refusal :=
  match decode op bytes with
  | .ok i => exec i s
  | .error e => .refused (.undecodable e)

/-- The frame at a unit's output port, for the units that put out frames. -/
def Outputs.frame (o : Outputs) : Op → Option (List Byte)
  | .encsw => o.encsw
  | .encee => o.encee
  | .commit => o.commit.bind CodecResult.data
  | .decw => none
  | .extw => none

/-- The byte at the multiplexer's output: `frame[i]` of the frame now at the selected unit's port, for the position i now
selected (30_encoding.md R52, 43 R102). A combinational function of the two, with nothing held (00_scope.md R10, 92 D2);
no value where no unit is selected, the unit's port holds no frame or the frame has no such position (10_state.md R30). -/
def State.serialByte (s : State) : Option Byte :=
  s.select.bind fun x => (s.out.frame x.unit).bind (·[x.position]?)

/-- The environment selects a position of a unit's frame and takes the byte. -/
def State.takeByte (op : Op) (s : State) (position : Nat) : State :=
  { s.selectAt op position with presented := s.presented ++ (s.selectAt op position).serialByte.toList }

/-- A unit's frame is put out one byte at a time: positions 0, 1, 2, … are selected in ascending order, each exactly
once, so many as are asked for (30_encoding.md R52). -/
def State.takeBytes (op : Op) (count : Nat) (s : State) : State :=
  (List.range count).foldl (State.takeByte op) { s with presented := [] }

/-- A unit's frame is presented serially, "for i from 0 up to length-1, in ascending order, each byte exactly once"
(30_encoding.md R52). It is one step: a partly presented frame is "not observable" (00_scope.md R10, 92 D2; log 29). With
no frame at the unit's port there is nothing to present (10_state.md R30). -/
def presentFrame (op : Op) (s : State) : Host.Outcome State Fault Refusal :=
  match s.out.frame op with
  | some frame => .next (s.takeBytes op frame.length)
  | none => .refused .frameAbsent

/-- The latch signal (60_exceptions.md R118). -/
def State.latchDevice (channels : PerChannel Bool) (s : State) : State :=
  { s with device := Device.latch channels s.device }

/-- One input of the environment. -/
def takeInput (x : Input) (s : State) : Host.Outcome State Fault Refusal :=
  match x with
  | .present op bytes => present op bytes s
  | .evaluate i => exec i s
  | .driveBuffer bytes => .next (s.driveBuffer (Memory.ofBytes bytes))
  | .selectByte op position => .next (s.selectAt op position)
  | .presentFrame op => presentFrame op s
  | .call c => startCall c s
  | .answer a => takeAnswer a s
  | .latch channels => .next (s.latchDevice channels)
  | .powerUp => .next (s.changeDevice Device.powerUp)
  | .foreignFrame frame => s.receiveFrame frame

/-- The oldest input is taken; with none there is nothing to do (log 31). -/
def nextInput (s : State) : Host.Outcome State Fault Refusal :=
  match s.inputs with
  | [] => .refused .nothingPresented
  | x :: rest => takeInput x { s with inputs := rest }

/-- A table word put before the machine as its next input; an RDBUF image is driven to the RB port (log 6). -/
def presentTableWord (s : State) (nbits w : Nat) : State :=
  let t := tableWord nbits w
  let s' := { s with inputs := .present t.op t.bytes :: s.inputs }
  match t.buffer with
  | none => s'
  | some bytes => s'.driveBuffer (Memory.ofBytes bytes)

end Sys2Proof.Machine
end

