-- ==== Sys2Proof/Machine/Step.lean ====
section
/-! DEFINITION. One step: the oldest input of the environment is taken. The block has no program counter and fetches
nothing (10_state.md R14, 20_memory.md R48): which operation is evaluated next is the environment's choice, and stands in
`inputs`. -/

namespace Sys2Proof.Machine

/-- One step of the machine. -/
def step (s : State) : Host.Outcome State Fault Refusal := nextInput s

/-- The state with a table word as its next input (log 6). -/
def State.withFetchWord (s : State) (nbits w : Nat) : State := presentTableWord s nbits w

end Sys2Proof.Machine
end

