-- ==== Sys2Proof/Safety.lean ====
section
/-! DEFINITION. What every step must keep: the read buffer in canonical form, only frames of the block on its ports and
on the bus, a commit only behind a successful read, a transaction of a connected session only, and only of
the connection that this session owns. -/

namespace Sys2Proof.Machine

/-- A 3-byte sequence whose byte 0 is in `0x40`–`0x47` (40 R73, 30_encoding.md R64). -/
def isSwFrame (frame : List Byte) : Bool :=
  match frame with
  | [b, _, _] => b &&& 0xF8 == 0x40
  | _ => false

/-- A 9-byte sequence that starts with `0x50` (43 R101, 30_encoding.md R64). -/
def isEeFrame (frame : List Byte) : Bool :=
  match frame with
  | [b, _, _, _, _, _, _, _, _] => b == 0x50
  | _ => false

/-- A successful 24-byte read. -/
def isGoodRead (e : TraceEntry) : Bool :=
  match e.transaction with
  | .read _ n => n == 24 && e.succeeded
  | _ => false

/-- What a transaction of the session may be: an `open`, a read of 24 bytes, a write of one of the block's two frames
(70 R137, 30_encoding.md R65). -/
def Transaction.allowed : Transaction → Bool
  | .openBus _ _ => true
  | .read _ n => n == 24
  | .write _ frame => isSwFrame frame || isEeFrame frame

/-- A read or a write is of the connection that the session owns; before it owns one there is none (70 R140, R141). -/
def Transaction.ownedBy (link : Link) : Transaction → Prop
  | .openBus _ _ => True
  | .read conn _ => link = .connected conn
  | .write conn _ => link = .connected conn

/-- Every commit write of the trace stands directly behind a successful read; `good` says whether the entry before the
list is one (60_exceptions.md R115: "write is never attempted after a failed read"). -/
def commitsGuarded (good : Bool) : List TraceEntry → Bool
  | [] => true
  | e :: rest =>
    (match e.transaction with
      | .write _ frame => !isEeFrame frame || good
      | _ => true) && commitsGuarded (isGoodRead e) rest

/-- Whether the last entry of the trace is a successful read. -/
def endsInGoodRead (trace : List TraceEntry) : Bool := (trace.getLast?.map isGoodRead).getD false

/-- The outstanding transaction is one the procedure may issue: a 3-byte frame for `setChannel` on a connected session,
a 9-byte frame behind a successful read for `saveToEeprom` (70 R134 to R137). -/
def Session.activityOk (x : Session) : Prop :=
  match x.activity with
  | .idle => True
  | .opening _ _ => x.link = .disconnected
  | .seeding conn => x.link = .connected conn
  | .settingChannel conn _ _ frame => x.link = .connected conn ∧ isSwFrame frame = true
  | .saveReading conn => x.link = .connected conn
  | .saveWriting conn frame => x.link = .connected conn ∧ isEeFrame frame = true ∧ endsInGoodRead x.trace = true

/-- The ports that put out frames hold frames of the block (40 R73, 43 R101). -/
structure Outputs.framed (o : Outputs) : Prop where
  encsw  : ∀ frame, o.encsw = some frame → isSwFrame frame = true
  encee  : ∀ frame, o.encee = some frame → isEeFrame frame = true
  commit : ∀ frame, o.commit = some (.ok frame) → isEeFrame frame = true

/-- What was last presented serially, if anything, is one whole frame of the block (30_encoding.md R52). -/
def State.presentedOk (s : State) : Prop :=
  s.presented ≠ [] → (isSwFrame s.presented || isEeFrame s.presented) = true

/-- The transaction a procedure in progress waits for (70 R134 to R136). -/
def Activity.outstanding : Activity → Option Transaction
  | .idle => none
  | .opening address bus => some (.openBus bus address)
  | .seeding conn => some (.read conn 24)
  | .settingChannel conn _ _ frame => some (.write conn frame)
  | .saveReading conn => some (.read conn 24)
  | .saveWriting conn frame => some (.write conn frame)

/-- Whether an answer reports success (70 R132). -/
def Answer.succeeded : Answer → Bool
  | .opened _ => true
  | .deviceNotFound => false
  | .written => true
  | .delivered _ => true
  | .deviceRead => true
  | .transportError => false
  | .never => false

/-- Two states of the output ports agree at one unit's port. -/
def Outputs.agreeAt (op : Op) (o o' : Outputs) : Prop :=
  match op with
  | .encsw => o.encsw = o'.encsw
  | .decw => o.decw = o'.decw
  | .extw => o.extw = o'.extw
  | .encee => o.encee = o'.encee
  | .commit => o.commit = o'.commit

/-- The invariant of the machine. -/
structure State.Inv (s : State) : Prop where
  buffer     : ∀ m, s.rb = some m → m.wf
  framed     : s.out.framed
  presented  : s.presentedOk
  bus        : ∀ e ∈ s.session.trace, e.transaction.allowed = true
  owned      : ∀ e ∈ s.session.trace, e.transaction.ownedBy s.session.link
  guarded    : commitsGuarded false s.session.trace = true
  activity   : s.session.activityOk
  /-- A cache entry exists only where the session has been opened (70 R134, R135). -/
  cached     : s.session.link = .disconnected → s.session.cache = ⟨none, none, none, none⟩

end Sys2Proof.Machine
end

