-- ==== Sys2Proof/Certificates/Slice0/Obligations.lean ====
section
/-! DEFINITION. The statements for the provers. Each docstring names the rule of spec/ it formalises. -/

open Sys2Proof Sys2Proof.Machine

/-! ### Encodings -/

/-- The explicit code points, and that each mapping is a bijection (10_state.md R18, R20, R21, R22, R27). The non-zero
codes are the spec's own decisions D4, D5, D6 (log 8). -/
def Obligations.CodePointsAreExplicitBijections : Prop :=
  (Channel.A.code = 0 ∧ Channel.B.code = 1 ∧ Channel.C.code = 2 ∧ Channel.D.code = 3) ∧
  (Reference.vdd.code = 0 ∧ Reference.internal.code = 1) ∧
  (Gain.x1.code = 0 ∧ Gain.x2.code = 1) ∧
  (PowerDown.normal.code = 0 ∧ PowerDown.groundViaDiv1k.code = 1 ∧ PowerDown.groundViaDiv100k.code = 2 ∧
    PowerDown.groundViaDiv500k.code = 3) ∧
  (∀ k : BitVec 2, ∃! c : Channel, c.code = k) ∧
  (∀ k : BitVec 1, ∃! r : Reference, r.code = k) ∧
  (∀ k : BitVec 1, ∃! g : Gain, g.code = k) ∧
  (∀ k : BitVec 2, ∃! p : PowerDown, p.code = k)

/-- 30_encoding.md R64: what a frame's byte 0 says of it, its length included; every other byte is "not produced by
this block". -/
def Obligations.ClassifierKnowsExactlyNineCommandBytes : Prop :=
  ∀ b : Byte,
    (b &&& 0xF8 = 0x40 → (classify b).length? = some 3 ∧
      ∃ chan udac, classify b = .sequentialWrite chan udac ∧ chan.code = b.extractLsb' 1 2 ∧ udac = b.getLsbD 0) ∧
    (b = 0x50 → classify b = .eepromCommit ∧ (classify b).length? = some 9) ∧
    (b &&& 0xF8 ≠ 0x40 → b ≠ 0x50 → classify b = .notProduced ∧ (classify b).length? = none)

/-- Words written out from the spec's patterns decode to the operations they stand for (30_encoding.md R53 to R57;
EXTW's and COMMIT's operand bytes are the model's choice, log 5). -/
def Obligations.SpecWordsDecode : Prop :=
  decode .encsw [0b01000101, 0b01001010, 0b10111100] =
    .ok (.encsw .C 0xABC .vdd .groundViaDiv100k .x1 (some true)) ∧
  decode .decw [0b10010001, 0b00100011] = .ok (.decw 0x91 0x23) ∧
  decode .encee [0b01010000, 0x08, 0x00, 0x91, 0x23, 0x4A, 0xBC, 0xFF, 0xFF] =
    .ok (.encee 0x0800 0x9123 0x4ABC 0xFFFF) ∧
  decode .extw [0b00000011] = .ok (.extw .D) ∧
  decode .commit [] = .ok .commit ∧
  decode .encsw [0b01001000, 0x00, 0x00] = .error (.notProduced 0x48) ∧
  decode .encee [0b01010001, 0, 0, 0, 0, 0, 0, 0, 0] = .error (.notProduced 0x51)

/-- Decode and encode agree: an operation's bytes decode to its canonical form, which is the operation itself where its
operands are what the encoding can carry. -/
def Obligations.DecodeEncodeRoundTrip : Prop :=
  (∀ i : Instr, decode i.op (encode i) = .ok i.canonical) ∧
  (∀ i : Instr, i.wellFormed = true → (∀ c v r p g, i ≠ .encsw c v r p g none) →
    decode i.op (encode i) = .ok i)

/-- The other direction: bytes that decode are the bytes of what they decode to, so no two byte sequences mean one
operation of a unit and no bit is dropped; and what they decode to is well formed. -/
def Obligations.DecodedBytesAreTheEncoding : Prop :=
  ∀ (op : Op) (bytes : List Byte) (i : Instr), decode op bytes = .ok i →
    i.op = op ∧ encode i = bytes ∧ i.wellFormed = true

/-- An operation and its canonical form have the same effect (40 R74; 10_state.md R24), whatever the state. -/
def Obligations.CanonicalFormHasTheSameEffect : Prop :=
  ∀ (i : Instr) (s : State), exec i.canonical s = exec i s

/-- What ENCSW and ENCEE put out is what the table's encoding says (30_encoding.md R55, R57): the pseudocode's shifts
and ors equal the pattern. -/
def Obligations.EncodersEmitTheTableEncoding : Prop :=
  (∀ c v r p g u s, ∃ t, exec (.encsw c v r p g u) s = .next t ∧
    t.out.encsw = some (encode (.encsw c v r p g u))) ∧
  (∀ a b c d s, ∃ t, exec (.encee a b c d) s = .next t ∧ t.out.encee = some (encode (.encee a b c d)))

/-! ### ENCSW -/

/-- 40 R71, R72: ENCSW completes in every state on every input, and drives the one 3-byte frame the formula gives, as
numbers; nothing else changes. -/
def Obligations.EncswDrivesTheFormulasFrame : Prop :=
  ∀ (chan : Channel) (value : Nat) (ref : Reference) (pd : PowerDown) (gain : Gain) (udac : Option Bool) (s : State),
    ∃ cmd hi lo : Byte,
      exec (.encsw chan value ref pd gain udac) s = .next { s with out := { s.out with encsw := some [cmd, hi, lo] } } ∧
      cmd.toNat = 0x40 + 2 * chan.code.toNat + (udac.getD false).toNat ∧
      256 * hi.toNat + lo.toNat =
        2 ^ 15 * ref.code.toNat + 2 ^ 13 * pd.code.toNat + 2 ^ 12 * gain.code.toNat + value % 4096

/-- 40 R74: values that differ by a multiple of 4096 have the same effect. -/
def Obligations.EncswMasksTheValue : Prop :=
  ∀ (chan : Channel) (value k : Nat) (ref : Reference) (pd : PowerDown) (gain : Gain) (udac : Option Bool) (s : State),
    exec (.encsw chan (value + 4096 * k) ref pd gain udac) s = exec (.encsw chan value ref pd gain udac) s

/-- Which inputs give the same bytes, and which frames ENCSW can emit (40 R73, which the spec marks as derived from R71
and R60). -/
def Obligations.EncswIsInjectiveAndReachesEveryFrame : Prop :=
  (∀ (c c' : Channel) (v v' : Nat) (r r' : Reference) (p p' : PowerDown) (g g' : Gain) (u u' : Bool) (s : State),
    ∃ t t' b0 b1 b2 b0' b1' b2',
      exec (.encsw c v r p g (some u)) s = .next t ∧ t.out.encsw = some [b0, b1, b2] ∧
      exec (.encsw c' v' r' p' g' (some u')) s = .next t' ∧ t'.out.encsw = some [b0', b1', b2'] ∧
      (b0 = b0' ↔ c = c' ∧ u = u') ∧
      (b1 = b1' ∧ b2 = b2' ↔ r = r' ∧ p = p' ∧ g = g' ∧ v % 4096 = v' % 4096)) ∧
  (∀ (frame : List Byte) (s : State),
    (∃ c v r p g u t, exec (.encsw c v r p g (some u)) s = .next t ∧ t.out.encsw = some frame) ↔
      ∃ b0 b1 b2 : Byte, frame = [b0, b1, b2] ∧ 0x40 ≤ b0.toNat ∧ b0.toNat ≤ 0x47)

/-- 40 R75: the fields of the command byte, and which inputs each byte depends on. -/
def Obligations.EncswCommandByteLaw : Prop :=
  ∀ (c : Channel) (v : Nat) (r : Reference) (p : PowerDown) (g : Gain) (u : Bool)
    (c' : Channel) (v' : Nat) (r' : Reference) (p' : PowerDown) (g' : Gain) (u' : Bool) (s : State),
    ∃ t t1 t2 b0 b1 b2 x1 x2 y0,
      exec (.encsw c v r p g (some u)) s = .next t ∧ t.out.encsw = some [b0, b1, b2] ∧
      b0.extractLsb' 1 2 = c.code ∧ b0.getLsbD 0 = u ∧ b0.extractLsb' 3 5 = 0b01000 ∧
      exec (.encsw c v' r' p' g' (some u)) s = .next t1 ∧ t1.out.encsw = some [b0, x1, x2] ∧
      exec (.encsw c' v r p g (some u')) s = .next t2 ∧ t2.out.encsw = some [y0, b1, b2]

/-- 10_state.md R24, 92 D8 (log 9): an absent latch flag is the flag 0, that is false. -/
def Obligations.EncswAbsentLatchFlagIsFalse : Prop :=
  ∀ (c : Channel) (v : Nat) (r : Reference) (p : PowerDown) (g : Gain) (s : State),
    exec (.encsw c v r p g none) s = exec (.encsw c v r p g (some false)) s

/-! ### DECW -/

/-- 41 R81: DECW completes in every state on every input and drives the four fields; nothing else changes. -/
def Obligations.DecwReturnsTheFourFields : Prop :=
  ∀ (hi lo : Byte) (s : State), ∃ f : Fields,
    exec (.decw hi lo) s = .next { s with out := { s.out with decw := some f } } ∧
    f.ref.code = (hi ++ lo).extractLsb' 15 1 ∧
    f.pd.code = (hi ++ lo).extractLsb' 13 2 ∧
    f.gain.code = (hi ++ lo).extractLsb' 12 1 ∧
    f.value = (hi ++ lo).extractLsb' 0 12

/-- Decoding is a bijection between words and field tuples, and composing the fields gives back the word (41 R83, which
the spec marks as derived from R81 and R60). -/
def Obligations.DecwIsABijection : Prop :=
  (∀ (hi lo : Byte) (s : State), ∃ t f, exec (.decw hi lo) s = .next t ∧ t.out.decw = some f ∧
    f.ref.code ++ f.pd.code ++ f.gain.code ++ f.value = hi ++ lo) ∧
  (∀ (f : Fields), ∃! x : Byte × Byte, ∀ s : State, ∃ t, exec (.decw x.1 x.2) s = .next t ∧ t.out.decw = some f)

/-- 41 R85: decoding bytes 1 and 2 of any ENCSW frame gives back the setting, its value reduced to 12 bits. -/
def Obligations.DecwInvertsEncsw : Prop :=
  ∀ (c : Channel) (v : Nat) (r : Reference) (p : PowerDown) (g : Gain) (u : Option Bool) (s : State),
    ∃ t t' b0 b1 b2 f, exec (.encsw c v r p g u) s = .next t ∧ t.out.encsw = some [b0, b1, b2] ∧
      exec (.decw b1 b2) t = .next t' ∧ t'.out.decw = some f ∧
      f.ref = r ∧ f.pd = p ∧ f.gain = g ∧ f.value.toNat = v % 4096

/-- Each output of DECW depends on the bits named for it only (41 R86, which the spec marks as derived from R81). -/
def Obligations.DecwOutputsDependOnTheirBitsOnly : Prop :=
  ∀ (hi lo hi' lo' : Byte) (s : State), ∃ t t' f f',
    exec (.decw hi lo) s = .next t ∧ t.out.decw = some f ∧
    exec (.decw hi' lo') s = .next t' ∧ t'.out.decw = some f' ∧
    (hi.getLsbD 7 = hi'.getLsbD 7 → f.ref = f'.ref) ∧
    (hi.extractLsb' 5 2 = hi'.extractLsb' 5 2 → f.pd = f'.pd) ∧
    (hi.getLsbD 4 = hi'.getLsbD 4 → f.gain = f'.gain) ∧
    (hi.extractLsb' 0 4 = hi'.extractLsb' 0 4 → lo = lo' → f.value = f'.value)

/-! ### The read buffer and EXTW -/

/-- 20_memory.md R31: after the environment drives a byte sequence, byte `i` of it is read at address `i`, and no address
at or above its length exists. The rest is the model's choice: the buffer's representation (log 2), that EXTW's and
COMMIT's ports hold no value until evaluated again while the others keep theirs (log 3), and that the
selected byte position and the record of the last presentation stand (log 29). -/
def Obligations.DrivenBufferIsReadBack : Prop :=
  ∀ (bytes : List Byte) (rest : List Input) (s : State), s.inputs = .driveBuffer bytes :: rest →
    ∃ t, step s = .next t ∧ (∀ a, t.readByte a = bytes[a]?) ∧ t.inputs = rest ∧ t.session = s.session ∧
      t.device = s.device ∧ t.fresh = s.fresh ∧ t.select = s.select ∧ t.presented = s.presented ∧
      t.out = { s.out with extw := none, commit := none }

/-- The canonical form of the read buffer (log 2): two well-formed buffers of one length that read the same at every
address are the same data. -/
def Obligations.CanonicalBufferIsUnique : Prop :=
  ∀ m m' : Memory, m.wf → m'.wf → m.len = m'.len → (∀ a, m.read a = m'.read a) → m = m'

/-- 42 R90: for a 24-byte buffer EXTW completes and drives the two bytes that the table gives for the channel; nothing
else changes. -/
def Obligations.ExtwSelectsTheChannelsWord : Prop :=
  ∀ (bytes : List Byte) (s : State), bytes.length = 24 → s.rb = some (.ofBytes bytes) →
    ∀ x ∈ [(Channel.A, 1), (.B, 7), (.C, 13), (.D, 19)], ∃ rawHigh rawLow : Byte,
      bytes[x.2]? = some rawHigh ∧ bytes[x.2 + 1]? = some rawLow ∧
      exec (.extw x.1) s = .next { s with out := { s.out with extw := some (.ok (rawHigh, rawLow)) } }

/-- EXTW fails exactly when the buffer's length is not 24, whatever `chan` and the bytes are; then `err` is 1 and there
is no word; on success `err` is 0 (42 R92; the form of the failure is the spec's decision D7, log 10). -/
def Obligations.ExtwFailsExactlyOnWrongLength : Prop :=
  ∀ (bytes : List Byte) (chan : Channel) (s : State), s.rb = some (.ofBytes bytes) →
    ∃ result, exec (.extw chan) s = .next { s with out := { s.out with extw := some result } } ∧
      (bytes.length ≠ 24 → result = .invalidBufferLength bytes.length ∧ result.err = 1 ∧ result.data = none) ∧
      (bytes.length = 24 → result.err = 0 ∧ ∃ word, result.data = some word)

/-- 42 R91: the bytes outside the channel's two-byte window, and everything else in the state, do not influence what
EXTW puts out. -/
def Obligations.ExtwDependsOnItsWindowOnly : Prop :=
  ∀ (bytes bytes' : List Byte) (chan : Channel) (s s' : State),
    bytes.length = 24 → bytes'.length = 24 → s.rb = some (.ofBytes bytes) → s'.rb = some (.ofBytes bytes') →
    bytes[6 * chan.code.toNat + 1]? = bytes'[6 * chan.code.toNat + 1]? →
    bytes[6 * chan.code.toNat + 2]? = bytes'[6 * chan.code.toNat + 2]? →
    ∃ t t', exec (.extw chan) s = .next t ∧ exec (.extw chan) s' = .next t' ∧ t.out.extw = t'.out.extw

/-- EXTW, then DECW on what it put out, reports the fields of the word at `6 * chan + 1` (42 R97, which the spec marks as
derived from R89 and R81). -/
def Obligations.ExtwThenDecwReportsTheChannel : Prop :=
  ∀ (bytes : List Byte) (chan : Channel) (s : State), bytes.length = 24 → s.rb = some (.ofBytes bytes) →
    ∃ t u hi lo f, exec (.extw chan) s = .next t ∧ t.out.extw = some (.ok (hi, lo)) ∧
      exec (.decw hi lo) t = .next u ∧ u.out.decw = some f ∧
      some (f.ref.code ++ f.pd.code ++ f.gain.code ++ f.value).toNat =
        (bytes[6 * chan.code.toNat + 1]?).bind fun x =>
          (bytes[6 * chan.code.toNat + 2]?).map fun y => 256 * x.toNat + y.toNat

/-- 10_state.md R30 (to refuse is the reading of 60_exceptions.md R128): with nobody driving RB, EXTW and COMMIT have
no result. -/
def Obligations.UndrivenBufferGivesNoResult : Prop :=
  ∀ (chan : Channel) (s : State), s.rb = none →
    exec (.extw chan) s = .refused (.inputAbsent "RB") ∧ exec .commit s = .refused (.inputAbsent "RB")

/-- The error is not sticky: an evaluation with a 24-byte buffer succeeds with `err` = 0 (60_exceptions.md R111; the
form of the failure is the spec's decision D7, log 10). -/
def Obligations.LengthErrorIsNotSticky : Prop :=
  ∀ (bytes : List Byte) (n : Nat) (chan : Channel) (s : State), bytes.length = 24 →
    s.out.extw = some (.invalidBufferLength n) → s.out.commit = some (.invalidBufferLength n) →
    ∃ t u, exec (.extw chan) (s.driveBuffer (.ofBytes bytes)) = .next t ∧ t.out.extw.map CodecResult.err = some 0 ∧
      exec .commit t = .next u ∧ u.out.commit.map CodecResult.err = some 0

/-! ### ENCEE and COMMIT -/

/-- 43 R99: ENCEE completes in every state on every input and drives the nine bytes; nothing else changes. -/
def Obligations.EnceeDrivesTheNineBytes : Prop :=
  ∀ (a b c d : SettingsWord) (s : State),
    ∃ frame : List Byte, exec (.encee a b c d) s = .next { s with out := { s.out with encee := some frame } } ∧
      frame = [0x50, a.extractLsb' 8 8, a.extractLsb' 0 8, b.extractLsb' 8 8, b.extractLsb' 0 8,
        c.extractLsb' 8 8, c.extractLsb' 0 8, d.extractLsb' 8 8, d.extractLsb' 0 8]

/-- The words pass through verbatim: ENCEE is injective, and its frames are the 9-byte sequences that start with `0x50`
(43 R101, which the spec marks as derived from R99). -/
def Obligations.EnceePassesTheWordsVerbatim : Prop :=
  (∀ (w : Fin 4 → SettingsWord) (s : State), ∃ t frame,
    exec (.encee (w 0) (w 1) (w 2) (w 3)) s = .next t ∧ t.out.encee = some frame ∧
    ∀ k : Fin 4, ∃ hi lo : Byte, frame[1 + 2 * k.val]? = some hi ∧ frame[2 + 2 * k.val]? = some lo ∧ hi ++ lo = w k) ∧
  (∀ (a b c d a' b' c' d' : SettingsWord) (s t t' : State),
    exec (.encee a b c d) s = .next t → exec (.encee a' b' c' d') s = .next t' → t.out.encee = t'.out.encee →
    a = a' ∧ b = b' ∧ c = c' ∧ d = d') ∧
  (∀ (frame : List Byte) (s : State),
    (∃ a b c d t, exec (.encee a b c d) s = .next t ∧ t.out.encee = some frame) ↔
      frame.length = 9 ∧ frame[0]? = some 0x50)

/-- Read as a multiplexer driven by the byte position: with ENCEE of four words evaluated and a position selected, in
either order, the byte is `0x50` at position 0, and at position i in 1 to 8 word `(i - 1) >> 1`, its high byte for odd i
and its low byte for even i; no other position has a byte (43 R102, which the spec marks as derived from R99 and R57; how
a position is selected is log 29). -/
def Obligations.EnceeIsTheByteMultiplexer : Prop :=
  ∀ (w : Fin 4 → SettingsWord) (i : Nat) (s : State) (rest : List Input) (x y : Input),
    (x = .evaluate (.encee (w 0) (w 1) (w 2) (w 3)) ∧ y = .selectByte .encee i ∨
      x = .selectByte .encee i ∧ y = .evaluate (.encee (w 0) (w 1) (w 2) (w 3))) → s.inputs = x :: y :: rest →
    ∃ t u, step s = .next t ∧ step t = .next u ∧
      (i = 0 → u.serialByte = some 0x50) ∧
      (∀ k : Fin 4, k.val = (i - 1) / 2 → 1 ≤ i → i ≤ 8 →
        u.serialByte = some (if i % 2 = 1 then (w k).extractLsb' 8 8 else (w k).extractLsb' 0 8)) ∧
      (8 < i → u.serialByte = none)

/-- The byte at position i is `frame[i]` of the frame now at the unit's port, in any state and whatever was selected,
presented or evaluated before (30_encoding.md R52; no counter and no held frame, 00_scope.md R10 with the spec's decision
D2): at once, and also after any operation that is evaluated while the position stays selected. That the position holds
until it is driven anew, and that there is no byte without a frame, is log 29. -/
def Obligations.SerialPresentationIsByIndex : Prop :=
  ∀ (op : Op) (i : Nat) (s : State) (rest : List Input), s.inputs = .selectByte op i :: rest →
    ∃ t, step s = .next t ∧ t = { s with inputs := rest, select := some ⟨op, i⟩ } ∧
      (∀ frame, s.out.frame op = some frame → t.serialByte = frame[i]?) ∧
      (s.out.frame op = none → t.serialByte = none) ∧
      (∀ (j : Instr) (u : State), exec j t = .next u →
        (∀ frame, u.out.frame op = some frame → u.serialByte = frame[i]?) ∧
        (u.out.frame op = none → u.serialByte = none))

/-- 30_encoding.md R52 as a whole: a unit's frame that is put out serially is given from position 0 up to length-1, in
ascending order, each byte exactly once, and each is the byte that selecting its position gives; with no frame at the port
the presentation is refused. That a presentation is one step, and the record of it, is log 29. -/
def Obligations.FramesArePresentedInOrderEachByteOnce : Prop :=
  ∀ (op : Op) (s : State) (rest : List Input), s.inputs = .presentFrame op :: rest →
    (∀ frame, frame ≠ [] → s.out.frame op = some frame →
      step s = .next { s with inputs := rest, select := some ⟨op, frame.length - 1⟩, presented := frame } ∧
      ∀ (i : Nat) (h : i < frame.length), ∃ t, step { s with inputs := .selectByte op i :: rest } = .next t ∧
        t.serialByte = some frame[i]) ∧
    (s.out.frame op = none → step s = .refused .frameAbsent)

/-- COMMIT as a byte map: for a 24-byte buffer it completes and drives the nine bytes; nothing else changes (43 R105,
which the spec marks as derived from R102, R104 and R90). -/
def Obligations.CommitIsTheByteMap : Prop :=
  ∀ (bytes : List Byte) (s : State), bytes.length = 24 → s.rb = some (.ofBytes bytes) →
    ∃ frame : List Byte,
      exec .commit s = .next { s with out := { s.out with commit := some (.ok frame) } } ∧
      frame.length = 9 ∧ frame[0]? = some 0x50 ∧
      ∀ i, 1 ≤ i → i ≤ 8 → frame[i]? = bytes[6 * ((i - 1) / 2) + 1 + (i - 1) % 2]?

/-- COMMIT is EXTW for A, B, C, D and then ENCEE of the four results, and ends with EXTW's error, and no frame, when EXTW
fails; nothing else changes (43 R104, which the spec marks as derived from R99 and R89; the length in the error is log
10). -/
def Obligations.CommitIsExtwFourTimesThenEncee : Prop :=
  ∀ (m : Memory) (s : State), s.rb = some m →
    (m.len = 24 → ∃ tA tB tC tD t aH aL bH bL cH cL dH dL frame,
      exec (.extw .A) s = .next tA ∧ tA.out.extw = some (.ok (aH, aL)) ∧
      exec (.extw .B) s = .next tB ∧ tB.out.extw = some (.ok (bH, bL)) ∧
      exec (.extw .C) s = .next tC ∧ tC.out.extw = some (.ok (cH, cL)) ∧
      exec (.extw .D) s = .next tD ∧ tD.out.extw = some (.ok (dH, dL)) ∧
      exec (.encee (aH ++ aL) (bH ++ bL) (cH ++ cL) (dH ++ dL)) s = .next t ∧ t.out.encee = some frame ∧
      exec .commit s = .next { s with out := { s.out with commit := some (.ok frame) } }) ∧
    (m.len ≠ 24 → ∃ result, exec .commit s = .next { s with out := { s.out with commit := some result } } ∧
      result = .invalidBufferLength m.len ∧ result.err = 1 ∧ result.data = none)

/-- Status headers and shadow bytes never reach the frame: two buffers that agree at the eight word addresses give the
same frame (a corner case of 43 R104, and 20_memory.md R34, R35). -/
def Obligations.CommitDependsOnEightBytesOnly : Prop :=
  ∀ (bytes bytes' : List Byte) (s s' : State),
    bytes.length = 24 → bytes'.length = 24 → s.rb = some (.ofBytes bytes) → s'.rb = some (.ofBytes bytes') →
    (∀ a ∈ [1, 2, 7, 8, 13, 14, 19, 20], bytes[a]? = bytes'[a]?) →
    ∃ t t', exec .commit s = .next t ∧ exec .commit s' = .next t' ∧ t.out.commit = t'.out.commit

/-! ### All operations -/

/-- Every operation completes: ENCSW, DECW, ENCEE in every state, EXTW and COMMIT wherever RB is driven; no connection,
mode or privilege is asked for (60_exceptions.md R125, 70 R131). -/
def Obligations.EveryOperationCompletes : Prop :=
  ∀ (i : Instr) (s : State), (i.op = .extw ∨ i.op = .commit → s.rb ≠ none) → ∃ t, exec i s = .next t

/-- The frame of every operation: it drives its own unit's port and leaves the buffer, byte by byte, and everything of the
environment (00_scope.md R10, 10_state.md R11, 20_memory.md R31). That the other units' ports keep their values is the
model's choice (log 3), and so it is that the selected byte position and the record of the last presentation
stand (log 29). -/
def Obligations.OperationsDriveTheirOwnPortOnly : Prop :=
  ∀ (i : Instr) (s t : State), exec i s = .next t →
    (∀ op, op ≠ i.op → Outputs.agreeAt op t.out s.out) ∧ t.select = s.select ∧ t.presented = s.presented ∧
    (∀ a, t.readByte a = s.readByte a) ∧ t.rb = s.rb ∧
    t.inputs = s.inputs ∧ t.session = s.session ∧ t.device = s.device ∧ t.fresh = s.fresh

/-- "two evaluations with equal inputs give equal outputs; evaluating one operation changes the result of no other" (a
part of 00_scope.md R10). The inputs are the operands and, for EXTW and COMMIT, the buffer. -/
def Obligations.OperationsArePure : Prop :=
  (∀ (i : Instr) (s s' t : State), s.rb = s'.rb → exec i s = .next t →
    ∃ t', exec i s' = .next t' ∧ Outputs.agreeAt i.op t.out t'.out) ∧
  (∀ (i j : Instr) (s s1 t : State), exec j s = .next s1 → exec i s = .next t →
    ∃ t', exec i s1 = .next t' ∧ Outputs.agreeAt i.op t.out t'.out)

/-- 30_encoding.md R50: a receiver tells every frame that an operation emits, and its length, by its command byte. -/
def Obligations.EmittedFramesTellTheirLength : Prop :=
  ∀ (i : Instr) (s t : State) (frame : List Byte), exec i s = .next t → t.out.frame i.op = some frame →
    ∃ b rest, frame = b :: rest ∧ (classify b).length? = some frame.length ∧
      (i.op = .encsw ↔ b.extractLsb' 3 5 = 0b01000) ∧ (i.op = .encee ∨ i.op = .commit ↔ b = 0x50)

/-! ### The step -/

/-- A step runs what the environment presents: decoded bytes, or an operation at the ports; the oldest input is used up
(30_encoding.md R68; the input list is the model's, log 4). Bytes that do not decode are refused with the reason. -/
def Obligations.StepRunsThePresentedOperation : Prop :=
  ∀ (op : Op) (bytes : List Byte) (i : Instr) (s : State) (rest : List Input),
    (s.inputs = .present op bytes :: rest → decode op bytes = .ok i → step s = exec i { s with inputs := rest }) ∧
    (s.inputs = .evaluate i :: rest → step s = exec i { s with inputs := rest }) ∧
    (∀ why, s.inputs = .present op bytes :: rest → decode op bytes = .error why →
      step s = .refused (.undecodable why))

/-- A table word put before the machine is decoded and run as the next step (log 6); an RDBUF image is driven to RB
first. -/
def Obligations.StepRunsTheTableWord : Prop :=
  ∀ (s : State) (nbits w : Nat) (i : Instr), decodeTableWord nbits w = some i →
    ((tableWord nbits w).buffer = none → step (s.withFetchWord nbits w) = exec i s) ∧
    (∀ bytes, (tableWord nbits w).buffer = some bytes →
      step (s.withFetchWord nbits w) = exec i (s.driveBuffer (.ofBytes bytes)))

/-- The start (10_state.md R29, 70 R129): no port is driven, the session is `Disconnected` with an empty cache, every
input register is loaded from its EEPROM shadow. (That the loaded word is in effect at the output is log 35; the trace, the
activity and the inputs start empty, and nothing has been presented, by the model's choice, log 4, 11, 29.) -/
def Obligations.StartIsAsGiven : Prop :=
  State.reset.rb = none ∧ State.reset.select = none ∧ State.reset.session.link = .disconnected ∧
  State.reset.session.cache = ⟨none, none, none, none⟩ ∧
  (∀ c, (State.reset.device.get c).inputReg = (State.reset.device.get c).eeprom) ∧
  State.reset.out = ⟨none, none, none, none, none⟩ ∧
  State.reset.inputs = [] ∧ State.reset.presented = [] ∧
  (∀ c, (State.reset.device.get c).output = (State.reset.device.get c).eeprom) ∧ State.reset.session.activity = .idle ∧
  State.reset.session.trace = []

/-- The invariant holds at the start. -/
def Obligations.StartMeetsTheInvariant : Prop := State.reset.Inv

/-- Every step keeps the invariant: the buffer in canonical form (log 2); only the block's own frames on the ports, which
keep them (log 3), and on the bus (30_encoding.md R65); what was last presented serially is one whole frame of the block (R52;
the record is log 29); every commit write directly behind a successful read (60_exceptions.md R115); a
transaction only of a connected session, save the `open` itself (70 R133; the session's bookkeeping is log 11), and every
read and write of the connection that the session owns, on the transport `open` was passed (70 R140, R141). -/
def Obligations.EveryStepKeepsTheInvariant : Prop :=
  ∀ s t : State, s.Inv → step s = .next t → t.Inv

/-! ### The session -/

/-- 70 R133: `open` is the only transition out of `Disconnected`, and none returns to it. -/
def Obligations.OnlyOpenConnectsAndNothingDisconnects : Prop :=
  ∀ s t : State, step s = .next t →
    (s.session.link ≠ .disconnected → t.session.link ≠ .disconnected) ∧
    (s.session.link = .disconnected → t.session.link ≠ .disconnected →
      ∃ address bus handle rest, s.session.activity = .opening address bus ∧
        s.inputs = .answer (.opened handle) :: rest ∧ t.session.link = .connected ⟨bus, handle⟩)

/-- 60_exceptions.md R123, 70 R139: the cache changes only when a `setChannel` write has succeeded, and then only at
its channel, or when `open`'s seeding read has delivered. -/
def Obligations.CacheChangesOnlyOnSuccess : Prop :=
  ∀ s t : State, step s = .next t → t.session.cache ≠ s.session.cache →
    (∃ conn chan x frame rest, s.session.activity = .settingChannel conn chan x frame ∧
      s.inputs = .answer .written :: rest ∧
      t.session.cache.get chan = some ⟨x.value, x.ref, x.pd, x.gain⟩ ∧
      ∀ d, d ≠ chan → t.session.cache.get d = s.session.cache.get d) ∨
    (∃ conn a rest, s.session.activity = .seeding conn ∧ s.inputs = .answer a :: rest ∧ a ≠ .transportError)

/-- 20_memory.md R45, 70 R137: transactions finish one at a time, in order, each by its answer: an answer that completes
appends the transaction that was outstanding, with the success it reports, and no other step touches the trace (that the
trace is a field is log 11). -/
def Obligations.TransactionsFinishOneAtATime : Prop :=
  ∀ s t : State, step s = .next t →
    ((∀ a rest, s.inputs ≠ .answer a :: rest) → t.session.trace = s.session.trace) ∧
    (∀ a rest, s.inputs = .answer a :: rest → ∃ x, s.session.activity.outstanding = some x ∧
      t.session.trace = s.session.trace ++ [⟨x, a.succeeded⟩])

/-- 60_exceptions.md R112, with the transport that `open` is passed (70 R134, R141): `open` on an absent device returns `ConnectionError` and stays `Disconnected`; a failure of the
seeding read that follows a successful connection is no error: `open` succeeds and the cache is left as it was. -/
def Obligations.OpenConnectsOrReportsConnectionError : Prop :=
  ∀ (address bus handle : Nat) (s : State) (rest : List Input), s.session.activity = .idle →
    s.session.link = .disconnected →
    (s.inputs = .call (.openSession address bus) :: .answer .deviceNotFound :: rest → ∃ t u,
      step s = .next t ∧ step t = .next u ∧
      u.session.link = .disconnected ∧ u.session.activity = .idle ∧
      u.session.result = some (.failed .connectionError) ∧ u.session.cache = s.session.cache ∧
      u.session.trace = s.session.trace ++ [⟨.openBus bus address, false⟩]) ∧
    (s.inputs = .call (.openSession address bus) :: .answer (.opened handle) :: .answer .transportError :: rest → ∃ t u v,
      step s = .next t ∧ step t = .next u ∧ step u = .next v ∧
      u.session.link = .connected ⟨bus, handle⟩ ∧ u.session.activity = .seeding ⟨bus, handle⟩ ∧ u.session.result = none ∧
      v.session.link = .connected ⟨bus, handle⟩ ∧ v.session.activity = .idle ∧
      v.session.result = some .success ∧ v.session.cache = s.session.cache ∧
      v.session.trace = s.session.trace ++ [⟨.openBus bus address, true⟩, ⟨.read ⟨bus, handle⟩ 24, false⟩])

/-- The seeding read fills every cache entry with the fields of the channel's word, `DECW(EXTW(RB, k))`, and `open`
returns success; where the device itself delivers its read-back (20_memory.md R33), that word is the channel's input
register (70 R134 step 4, which the spec marks as derived; what an entry holds is log 16, the read-back log 25, that the
device is read with the answer log 38). -/
def Obligations.SeedingFillsTheCache : Prop :=
  ∀ (a : Answer) (conn : Connection) (word : Channel → SettingsWord) (s : State) (rest : List Input),
    s.session.activity = .seeding conn → s.inputs = .answer a :: rest →
    (∃ bytes : List Byte, a = .delivered bytes ∧ bytes.length = 24 ∧ ∀ chan, ∃ hi lo,
      bytes[6 * chan.code.toNat + 1]? = some hi ∧ bytes[6 * chan.code.toNat + 2]? = some lo ∧ word chan = hi ++ lo) ∨
    (a = .deviceRead ∧ ∀ chan, word chan = (s.device.get chan).inputReg) →
    ∃ t, step s = .next t ∧ t.session.result = some .success ∧ t.session.activity = .idle ∧
      t.session.link = s.session.link ∧ t.session.trace = s.session.trace ++ [⟨.read conn 24, true⟩] ∧
      ∀ chan, ∃ entry, t.session.cache.get chan = some entry ∧ entry.value < 4096 ∧
        entry.value + 2 ^ 12 * entry.gain.code.toNat + 2 ^ 13 * entry.pd.code.toNat + 2 ^ 15 * entry.ref.code.toNat =
          (word chan).toNat

/-- `setChannel` issues exactly one write, of ENCSW's 3-byte frame. On success the cache entry of the channel takes the
setting, and the device has the word in effect or pending "per the latch-now flag"; on failure `WriteError` is returned
and the cache is unchanged; the other channels and every EEPROM word are as before (70 R135, R142, 40 R79; what an entry
holds is log 16, the polarity of the flag log 20, that the word replaces an older pending one log 21, the word in effect
log 35, the other channels after a failure log 22).
That the device is as before while the write is outstanding, and takes the frame with the answer, is log 38. -/
def Obligations.SetChannelWritesTheFrameAndCachesOnSuccess : Prop :=
  ∀ (chan : Channel) (x : Setting) (s : State) (rest : List Input) (conn : Connection) (a : Answer),
    s.session.activity = .idle → s.session.link = .connected conn → a = .written ∨ a = .transportError →
    s.inputs = .call (.setChannel chan x) :: .answer a :: rest →
    ∃ e t u b0 b1 b2, exec (.encsw chan x.value x.ref x.pd x.gain x.udac) s = .next e ∧
      e.out.encsw = some [b0, b1, b2] ∧
      step s = .next t ∧ t.session.trace = s.session.trace ∧ t.session.cache = s.session.cache ∧ t.device = s.device ∧
      step t = .next u ∧ u.session.activity = .idle ∧ u.session.link = .connected conn ∧
      u.session.trace = s.session.trace ++ [⟨.write conn [b0, b1, b2], decide (a = .written)⟩] ∧
      (∀ d, d ≠ chan → u.device.get d = s.device.get d) ∧ (∀ d, (u.device.get d).eeprom = (s.device.get d).eeprom) ∧
      (a = .written → u.session.result = some .success ∧
        u.session.cache = s.session.cache.set chan (some ⟨x.value, x.ref, x.pd, x.gain⟩) ∧
        (x.udac.getD false = Config.bit0OneMeansImmediate →
          (u.device.get chan).inputReg = b1 ++ b2 ∧ (u.device.get chan).output = b1 ++ b2) ∧
        (x.udac.getD false ≠ Config.bit0OneMeansImmediate →
          (u.device.get chan).pending = some (b1 ++ b2) ∧ (u.device.get chan).output = (s.device.get chan).output)) ∧
      (a = .transportError → u.session.result = some (.failed .writeErrorSetChannel) ∧
        u.session.cache = s.session.cache)

/-- 60_exceptions.md R115: when its read fails `saveToEeprom` returns `ReadError`, its one transaction is that read, no
write among them, and the device is as before. -/
def Obligations.FailedSaveReadWritesNothing : Prop :=
  ∀ (s : State) (rest : List Input) (conn : Connection), s.session.activity = .idle → s.session.link = .connected conn →
    s.inputs = .call .saveToEeprom :: .answer .transportError :: rest →
    ∃ t u, step s = .next t ∧ step t = .next u ∧ u.session.result = some (.failed .readError) ∧
      u.session.activity = .idle ∧ u.session.trace = s.session.trace ++ [⟨.read conn 24, false⟩] ∧ u.device = s.device

/-- A buffer of the wrong length ends `saveToEeprom` with `InvalidBufferLength` and no write (60_exceptions.md R119; the
spec's decision D18, log 15). That the device is as before a read that was delivered is the model's choice (log 25). -/
def Obligations.WrongLengthSaveReadWritesNothing : Prop :=
  ∀ (bytes : List Byte) (conn : Connection) (s : State) (rest : List Input), bytes.length ≠ 24 →
    s.session.activity = .saveReading conn →
    s.inputs = .answer (.delivered bytes) :: rest →
    ∃ t, step s = .next t ∧ t.session.result = some (.failed (.invalidBufferLength bytes.length)) ∧
      t.session.activity = .idle ∧ t.session.trace = s.session.trace ++ [⟨.read conn 24, true⟩] ∧ t.device = s.device

/-- 70 R136: `saveToEeprom` reads 24 bytes; a failed read, or a buffer COMMIT refuses, ends it with no write; else it
writes exactly COMMIT's 9-byte frame and returns success or the commit's own `WriteError`; the cache is as before. -/
def Obligations.SaveReadsThenWritesTheCommitFrame : Prop :=
  ∀ (bytes : List Byte) (s : State) (rest : List Input) (conn : Connection) (a : Answer),
    s.session.activity = .idle → s.session.link = .connected conn → a = .written ∨ a = .transportError →
    (s.inputs = .call .saveToEeprom :: .answer .transportError :: rest → ∃ t u, step s = .next t ∧ step t = .next u ∧
      u.session.result = some (.failed .readError) ∧ u.session.activity = .idle ∧
      u.session.trace = s.session.trace ++ [⟨.read conn 24, false⟩] ∧ u.session.cache = s.session.cache) ∧
    (bytes.length ≠ 24 → s.inputs = .call .saveToEeprom :: .answer (.delivered bytes) :: rest →
      ∃ t u, step s = .next t ∧ step t = .next u ∧ u.session.activity = .idle ∧
      u.session.result ≠ some .success ∧ u.session.trace = s.session.trace ++ [⟨.read conn 24, true⟩] ∧
      u.session.cache = s.session.cache) ∧
    (bytes.length = 24 → s.inputs = .call .saveToEeprom :: .answer (.delivered bytes) :: .answer a :: rest →
      ∃ t u v e frame, step s = .next t ∧ step t = .next u ∧ step u = .next v ∧
      exec .commit (s.driveBuffer (.ofBytes bytes)) = .next e ∧ e.out.commit = some (.ok frame) ∧ frame.length = 9 ∧
      v.session.trace = s.session.trace ++ [⟨.read conn 24, true⟩, ⟨.write conn frame, decide (a = .written)⟩] ∧
      v.session.activity = .idle ∧ v.session.cache = s.session.cache ∧
      v.session.result = some (if a = .written then .success else .failed .writeErrorEepromCommit))

/-- What the spec gives no meaning (93 U16, 70 R133; log 13): `setChannel` and `saveToEeprom` on a `Disconnected`
session, `open` on a `Connected` one, and any call while a procedure is in progress, are refused by name. -/
def Obligations.CallsOutsideTheContractAreRefused : Prop :=
  ∀ (c : Call) (chan : Channel) (x : Setting) (address bus : Nat) (s : State) (rest : List Input),
    (s.session.link = .disconnected → s.session.activity = .idle →
      (s.inputs = .call (.setChannel chan x) :: rest → step s = .refused .notConnected) ∧
      (s.inputs = .call .saveToEeprom :: rest → step s = .refused .notConnected)) ∧
    (s.session.link ≠ .disconnected → s.session.activity = .idle →
      s.inputs = .call (.openSession address bus) :: rest → step s = .refused .alreadyConnected) ∧
    (s.session.activity ≠ .idle → s.inputs = .call c :: rest → step s = .refused .sessionBusy)

/-- 60_exceptions.md R122, 93 U14 (log 14): a transport that never answers leaves the session waiting for ever: a stuck
state, whatever transaction is outstanding. -/
def Obligations.UnansweredTransactionHangs : Prop :=
  ∀ (s : State) (rest : List Input), s.session.activity ≠ .idle → s.inputs = .answer .never :: rest →
    step s = .fault .transportHang

/-! ### The device -/

/-- 43 R106, R103: a commit of what the device itself reports copies each channel's input register into its EEPROM. That
it leaves the input registers is log 24, that the read does log 25, when the device acts log 38. -/
def Obligations.SaveCopiesInputRegistersToEeprom : Prop :=
  ∀ (conn : Connection) (s : State) (rest : List Input), s.session.activity = .saveReading conn →
    s.inputs = .answer .deviceRead :: .answer .written :: rest →
    ∃ t u, step s = .next t ∧ step t = .next u ∧ u.session.result = some .success ∧
      ∀ c, (u.device.get c).eeprom = (s.device.get c).inputReg ∧
        (u.device.get c).inputReg = (s.device.get c).inputReg

/-- 70 R144: between the read and the write of `saveToEeprom` another agent's SW frame may reach the device; the
committed words are those of the read. -/
def Obligations.CommittedWordsAreThoseRead : Prop :=
  ∀ (bytes : List Byte) (b0 b1 b2 : Byte) (conn : Connection) (s : State) (rest : List Input), bytes.length = 24 →
    b0 &&& 0xF8 = 0x40 → s.session.activity = .saveReading conn →
    s.inputs = .answer (.delivered bytes) :: .foreignFrame [b0, b1, b2] :: .answer .written :: rest →
    ∃ t u v, step s = .next t ∧ step t = .next u ∧ step u = .next v ∧ v.session.result = some .success ∧
      ∀ c, ∃ hi lo, bytes[6 * c.code.toNat + 1]? = some hi ∧ bytes[6 * c.code.toNat + 2]? = some lo ∧
        (v.device.get c).eeprom = hi ++ lo

/-- 40 R79, 20_memory.md R44: a sequential write addresses exactly the channel in bits 2–1 of its byte 0: no other
channel of the device changes, and no EEPROM does. That the output ports keep what they hold is the model's choice (log
3); the session sees nothing of another agent's frame (70 R147), and RB is not of its address space (20_memory.md R31). -/
def Obligations.SequentialWriteReachesOneChannel : Prop :=
  ∀ (b0 b1 b2 : Byte) (s : State) (rest : List Input), b0 &&& 0xF8 = 0x40 →
    s.inputs = .foreignFrame [b0, b1, b2] :: rest →
    ∃ t, step s = .next t ∧
      (∀ c : Channel, c.code ≠ b0.extractLsb' 1 2 → t.device.get c = s.device.get c) ∧
      (∀ c, (t.device.get c).eeprom = (s.device.get c).eeprom) ∧
      t.session = s.session ∧ t.rb = s.rb ∧ t.out = s.out

/-- Whichever meaning the latch bit has, a written word either is in effect, in the input register and at the output, or
is held pending with the output as before (70 R142, 10_state.md R24). The polarity is the open parameter of 92 D20
(log 20; the word in effect at the output is log 35). That a held word replaces an older pending one is the model's
choice (log 21). -/
def Obligations.WrittenWordIsInEffectOrHeld : Prop :=
  ∀ (chan : Channel) (udac : Bool) (b0 b1 b2 : Byte) (s : State) (rest : List Input),
    b0 &&& 0xF8 = 0x40 → b0.extractLsb' 1 2 = chan.code → b0.getLsbD 0 = udac →
    s.inputs = .foreignFrame [b0, b1, b2] :: rest →
    ∃ t, step s = .next t ∧
      (udac = Config.bit0OneMeansImmediate →
        (t.device.get chan).inputReg = b1 ++ b2 ∧ (t.device.get chan).output = b1 ++ b2) ∧
      (udac ≠ Config.bit0OneMeansImmediate →
        (t.device.get chan).pending = some (b1 ++ b2) ∧ (t.device.get chan).output = (s.device.get chan).output)

/-- 60_exceptions.md R118: the latch signal makes the device apply a held value, at the channels it is given to (which
those are is an input, log 26; that a channel with no held value is wholly as before, its header included, is log 39). -/
def Obligations.LatchSignalAppliesHeldValues : Prop :=
  ∀ (channels : PerChannel Bool) (s : State) (rest : List Input), s.inputs = .latch channels :: rest →
    ∃ t, step s = .next t ∧ ∀ c,
      (channels.get c = false → t.device.get c = s.device.get c) ∧
      (∀ w, channels.get c = true → (s.device.get c).pending = some w →
        (t.device.get c).inputReg = w ∧ (t.device.get c).output = w ∧ (t.device.get c).pending = none) ∧
      ((s.device.get c).pending = none → t.device.get c = s.device.get c) ∧
      (t.device.get c).eeprom = (s.device.get c).eeprom

/-- "the channel's output does not change until that signal comes" (70 R142), over all steps: from a state that meets the
invariant, a step changes the word in effect at a channel's output only by the latch signal given to the channel, which
applies its pending value; by a power-up; by a sequential write to the channel whose latch bit means "at once"; or by a
failed write that leaves it unspecified (log 22, 23, 35; the polarity is log 20; that the session's transactions act on
the device with their answers, and that a commit, a read and a failed seeding read leave the output, log 38, 24, 25, 36). -/
def Obligations.OutputChangesOnlyForACause : Prop :=
  ∀ (c : Channel) (s t : State), s.Inv → step s = .next t → (t.device.get c).output ≠ (s.device.get c).output →
    (∃ channels rest w, s.inputs = .latch channels :: rest ∧ channels.get c = true ∧
      (s.device.get c).pending = some w ∧ (t.device.get c).output = w) ∨
    (∃ rest, s.inputs = .powerUp :: rest ∧ (t.device.get c).output = (s.device.get c).eeprom) ∨
    (∃ b0 b1 b2 rest, (s.inputs = .foreignFrame [b0, b1, b2] :: rest ∨
        s.inputs = .answer .written :: rest ∧ ∃ conn chan x, s.session.activity = .settingChannel conn chan x [b0, b1, b2]) ∧
      b0.extractLsb' 1 2 = c.code ∧ b0.getLsbD 0 = Config.bit0OneMeansImmediate ∧ (t.device.get c).output = b1 ++ b2) ∨
    (∃ rest, s.inputs = .answer .transportError :: rest ∧
      ((∃ conn x frame, s.session.activity = .settingChannel conn c x frame) ∨
        ∃ conn frame, s.session.activity = .saveWriting conn frame))

/-- 70 R130: at power-up the EEPROM shadow is loaded into the input register, and keeps its contents; hence what an EE
frame commits is what the channels hold after the next power-up. -/
def Obligations.PowerUpLoadsTheEeprom : Prop :=
  (∀ (s : State) (rest : List Input), s.inputs = .powerUp :: rest →
    ∃ t, step s = .next t ∧
      ∀ c, (t.device.get c).inputReg = (s.device.get c).eeprom ∧ (t.device.get c).eeprom = (s.device.get c).eeprom) ∧
  (∀ (a b c d : SettingsWord) (frame : List Byte) (s e : State) (rest : List Input),
    exec (.encee a b c d) s = .next e → e.out.encee = some frame → s.inputs = .foreignFrame frame :: .powerUp :: rest →
    ∃ t u, step s = .next t ∧ step t = .next u ∧
      (u.device.get .A).inputReg = a ∧ (u.device.get .B).inputReg = b ∧
      (u.device.get .C).inputReg = c ∧ (u.device.get .D).inputReg = d)

/-- "anything that changes the device without going through this session (another master, a power cycle, a pending value
being latched) is not reflected" in the cache (70 R147). That nothing else of the session and the block changes is the
model's choice: across a power cycle log 27, the output ports log 3, the selected byte position and the record of the
last presentation log 29. -/
def Obligations.DeviceChangesAreNotReflectedInTheSession : Prop :=
  ∀ (frame : List Byte) (channels : PerChannel Bool) (s t : State) (rest : List Input),
    s.inputs = .foreignFrame frame :: rest ∨ s.inputs = .powerUp :: rest ∨ s.inputs = .latch channels :: rest →
    step s = .next t →
    t.session = s.session ∧ t.out = s.out ∧ t.select = s.select ∧ t.presented = s.presented ∧ t.rb = s.rb ∧ t.inputs = rest
end

