-- ==== Sys2Proof/Laws/State.lean ====
section
/-! SUPPORT. One lemma per field per update of the state, each true by `rfl`, so that no later proof unfolds a record
update. -/

namespace Sys2Proof.Machine

variable (s : State)

/-! ### State.driveBuffer -/

@[simp] theorem State.driveBuffer_inputs (m : Memory) : (s.driveBuffer m).inputs = s.inputs := rfl
@[simp] theorem State.driveBuffer_rb (m : Memory) : (s.driveBuffer m).rb = some m := rfl
@[simp] theorem State.driveBuffer_select (m : Memory) : (s.driveBuffer m).select = s.select := rfl
@[simp] theorem State.driveBuffer_presented (m : Memory) : (s.driveBuffer m).presented = s.presented := rfl
@[simp] theorem State.driveBuffer_out (m : Memory) : (s.driveBuffer m).out = { s.out with extw := none, commit := none } := rfl
@[simp] theorem State.driveBuffer_session (m : Memory) : (s.driveBuffer m).session = s.session := rfl
@[simp] theorem State.driveBuffer_device (m : Memory) : (s.driveBuffer m).device = s.device := rfl
@[simp] theorem State.driveBuffer_fresh (m : Memory) : (s.driveBuffer m).fresh = s.fresh := rfl

/-! ### State.putEncsw -/

@[simp] theorem State.putEncsw_inputs (f : List Byte) : (s.putEncsw f).inputs = s.inputs := rfl
@[simp] theorem State.putEncsw_rb (f : List Byte) : (s.putEncsw f).rb = s.rb := rfl
@[simp] theorem State.putEncsw_select (f : List Byte) : (s.putEncsw f).select = s.select := rfl
@[simp] theorem State.putEncsw_presented (f : List Byte) : (s.putEncsw f).presented = s.presented := rfl
@[simp] theorem State.putEncsw_out (f : List Byte) : (s.putEncsw f).out = { s.out with encsw := some f } := rfl
@[simp] theorem State.putEncsw_session (f : List Byte) : (s.putEncsw f).session = s.session := rfl
@[simp] theorem State.putEncsw_device (f : List Byte) : (s.putEncsw f).device = s.device := rfl
@[simp] theorem State.putEncsw_fresh (f : List Byte) : (s.putEncsw f).fresh = s.fresh := rfl

/-! ### State.putDecw -/

@[simp] theorem State.putDecw_inputs (f : Fields) : (s.putDecw f).inputs = s.inputs := rfl
@[simp] theorem State.putDecw_rb (f : Fields) : (s.putDecw f).rb = s.rb := rfl
@[simp] theorem State.putDecw_select (f : Fields) : (s.putDecw f).select = s.select := rfl
@[simp] theorem State.putDecw_presented (f : Fields) : (s.putDecw f).presented = s.presented := rfl
@[simp] theorem State.putDecw_out (f : Fields) : (s.putDecw f).out = { s.out with decw := some f } := rfl
@[simp] theorem State.putDecw_session (f : Fields) : (s.putDecw f).session = s.session := rfl
@[simp] theorem State.putDecw_device (f : Fields) : (s.putDecw f).device = s.device := rfl
@[simp] theorem State.putDecw_fresh (f : Fields) : (s.putDecw f).fresh = s.fresh := rfl

/-! ### State.putExtw -/

@[simp] theorem State.putExtw_inputs (r : CodecResult (Byte × Byte)) : (s.putExtw r).inputs = s.inputs := rfl
@[simp] theorem State.putExtw_rb (r : CodecResult (Byte × Byte)) : (s.putExtw r).rb = s.rb := rfl
@[simp] theorem State.putExtw_select (r : CodecResult (Byte × Byte)) : (s.putExtw r).select = s.select := rfl
@[simp] theorem State.putExtw_presented (r : CodecResult (Byte × Byte)) : (s.putExtw r).presented = s.presented := rfl
@[simp] theorem State.putExtw_out (r : CodecResult (Byte × Byte)) : (s.putExtw r).out = { s.out with extw := some r } := rfl
@[simp] theorem State.putExtw_session (r : CodecResult (Byte × Byte)) : (s.putExtw r).session = s.session := rfl
@[simp] theorem State.putExtw_device (r : CodecResult (Byte × Byte)) : (s.putExtw r).device = s.device := rfl
@[simp] theorem State.putExtw_fresh (r : CodecResult (Byte × Byte)) : (s.putExtw r).fresh = s.fresh := rfl

/-! ### State.putEncee -/

@[simp] theorem State.putEncee_inputs (f : List Byte) : (s.putEncee f).inputs = s.inputs := rfl
@[simp] theorem State.putEncee_rb (f : List Byte) : (s.putEncee f).rb = s.rb := rfl
@[simp] theorem State.putEncee_select (f : List Byte) : (s.putEncee f).select = s.select := rfl
@[simp] theorem State.putEncee_presented (f : List Byte) : (s.putEncee f).presented = s.presented := rfl
@[simp] theorem State.putEncee_out (f : List Byte) : (s.putEncee f).out = { s.out with encee := some f } := rfl
@[simp] theorem State.putEncee_session (f : List Byte) : (s.putEncee f).session = s.session := rfl
@[simp] theorem State.putEncee_device (f : List Byte) : (s.putEncee f).device = s.device := rfl
@[simp] theorem State.putEncee_fresh (f : List Byte) : (s.putEncee f).fresh = s.fresh := rfl

/-! ### State.putCommit -/

@[simp] theorem State.putCommit_inputs (r : CodecResult (List Byte)) : (s.putCommit r).inputs = s.inputs := rfl
@[simp] theorem State.putCommit_rb (r : CodecResult (List Byte)) : (s.putCommit r).rb = s.rb := rfl
@[simp] theorem State.putCommit_select (r : CodecResult (List Byte)) : (s.putCommit r).select = s.select := rfl
@[simp] theorem State.putCommit_presented (r : CodecResult (List Byte)) : (s.putCommit r).presented = s.presented := rfl
@[simp] theorem State.putCommit_out (r : CodecResult (List Byte)) : (s.putCommit r).out = { s.out with commit := some r } := rfl
@[simp] theorem State.putCommit_session (r : CodecResult (List Byte)) : (s.putCommit r).session = s.session := rfl
@[simp] theorem State.putCommit_device (r : CodecResult (List Byte)) : (s.putCommit r).device = s.device := rfl
@[simp] theorem State.putCommit_fresh (r : CodecResult (List Byte)) : (s.putCommit r).fresh = s.fresh := rfl

/-! ### State.selectAt -/

@[simp] theorem State.selectAt_inputs (op : Op) (i : Nat) : (s.selectAt op i).inputs = s.inputs := rfl
@[simp] theorem State.selectAt_rb (op : Op) (i : Nat) : (s.selectAt op i).rb = s.rb := rfl
@[simp] theorem State.selectAt_select (op : Op) (i : Nat) : (s.selectAt op i).select = some ⟨op, i⟩ := rfl
@[simp] theorem State.selectAt_presented (op : Op) (i : Nat) : (s.selectAt op i).presented = s.presented := rfl
@[simp] theorem State.selectAt_out (op : Op) (i : Nat) : (s.selectAt op i).out = s.out := rfl
@[simp] theorem State.selectAt_session (op : Op) (i : Nat) : (s.selectAt op i).session = s.session := rfl
@[simp] theorem State.selectAt_device (op : Op) (i : Nat) : (s.selectAt op i).device = s.device := rfl
@[simp] theorem State.selectAt_fresh (op : Op) (i : Nat) : (s.selectAt op i).fresh = s.fresh := rfl

/-! ### State.begin -/

@[simp] theorem State.begin_inputs (a : Activity) : (s.begin a).inputs = s.inputs := rfl
@[simp] theorem State.begin_rb (a : Activity) : (s.begin a).rb = s.rb := rfl
@[simp] theorem State.begin_select (a : Activity) : (s.begin a).select = s.select := rfl
@[simp] theorem State.begin_presented (a : Activity) : (s.begin a).presented = s.presented := rfl
@[simp] theorem State.begin_out (a : Activity) : (s.begin a).out = s.out := rfl
@[simp] theorem State.begin_device (a : Activity) : (s.begin a).device = s.device := rfl
@[simp] theorem State.begin_fresh (a : Activity) : (s.begin a).fresh = s.fresh := rfl
@[simp] theorem State.begin_link (a : Activity) : (s.begin a).session.link = s.session.link := rfl
@[simp] theorem State.begin_activity (a : Activity) : (s.begin a).session.activity = a := rfl
@[simp] theorem State.begin_cache (a : Activity) : (s.begin a).session.cache = s.session.cache := rfl
@[simp] theorem State.begin_result (a : Activity) : (s.begin a).session.result = none := rfl
@[simp] theorem State.begin_trace (a : Activity) : (s.begin a).session.trace = s.session.trace := rfl

/-! ### State.finish -/

@[simp] theorem State.finish_inputs (r : CallResult) : (s.finish r).inputs = s.inputs := rfl
@[simp] theorem State.finish_rb (r : CallResult) : (s.finish r).rb = s.rb := rfl
@[simp] theorem State.finish_select (r : CallResult) : (s.finish r).select = s.select := rfl
@[simp] theorem State.finish_presented (r : CallResult) : (s.finish r).presented = s.presented := rfl
@[simp] theorem State.finish_out (r : CallResult) : (s.finish r).out = s.out := rfl
@[simp] theorem State.finish_device (r : CallResult) : (s.finish r).device = s.device := rfl
@[simp] theorem State.finish_fresh (r : CallResult) : (s.finish r).fresh = s.fresh := rfl
@[simp] theorem State.finish_link (r : CallResult) : (s.finish r).session.link = s.session.link := rfl
@[simp] theorem State.finish_activity (r : CallResult) : (s.finish r).session.activity = .idle := rfl
@[simp] theorem State.finish_cache (r : CallResult) : (s.finish r).session.cache = s.session.cache := rfl
@[simp] theorem State.finish_result (r : CallResult) : (s.finish r).session.result = some r := rfl
@[simp] theorem State.finish_trace (r : CallResult) : (s.finish r).session.trace = s.session.trace := rfl

/-! ### State.record -/

@[simp] theorem State.record_inputs (x : Transaction) (ok : Bool) : (s.record x ok).inputs = s.inputs := rfl
@[simp] theorem State.record_rb (x : Transaction) (ok : Bool) : (s.record x ok).rb = s.rb := rfl
@[simp] theorem State.record_select (x : Transaction) (ok : Bool) : (s.record x ok).select = s.select := rfl
@[simp] theorem State.record_presented (x : Transaction) (ok : Bool) : (s.record x ok).presented = s.presented := rfl
@[simp] theorem State.record_out (x : Transaction) (ok : Bool) : (s.record x ok).out = s.out := rfl
@[simp] theorem State.record_device (x : Transaction) (ok : Bool) : (s.record x ok).device = s.device := rfl
@[simp] theorem State.record_fresh (x : Transaction) (ok : Bool) : (s.record x ok).fresh = s.fresh := rfl
@[simp] theorem State.record_link (x : Transaction) (ok : Bool) : (s.record x ok).session.link = s.session.link := rfl
@[simp] theorem State.record_activity (x : Transaction) (ok : Bool) : (s.record x ok).session.activity = s.session.activity := rfl
@[simp] theorem State.record_cache (x : Transaction) (ok : Bool) : (s.record x ok).session.cache = s.session.cache := rfl
@[simp] theorem State.record_result (x : Transaction) (ok : Bool) : (s.record x ok).session.result = s.session.result := rfl
@[simp] theorem State.record_trace (x : Transaction) (ok : Bool) : (s.record x ok).session.trace = s.session.trace ++ [⟨x, ok⟩] := rfl

/-! ### State.cacheEntry -/

@[simp] theorem State.cacheEntry_inputs (c : Channel) (e : CacheEntry) : (s.cacheEntry c e).inputs = s.inputs := rfl
@[simp] theorem State.cacheEntry_rb (c : Channel) (e : CacheEntry) : (s.cacheEntry c e).rb = s.rb := rfl
@[simp] theorem State.cacheEntry_select (c : Channel) (e : CacheEntry) : (s.cacheEntry c e).select = s.select := rfl
@[simp] theorem State.cacheEntry_presented (c : Channel) (e : CacheEntry) : (s.cacheEntry c e).presented = s.presented := rfl
@[simp] theorem State.cacheEntry_out (c : Channel) (e : CacheEntry) : (s.cacheEntry c e).out = s.out := rfl
@[simp] theorem State.cacheEntry_device (c : Channel) (e : CacheEntry) : (s.cacheEntry c e).device = s.device := rfl
@[simp] theorem State.cacheEntry_fresh (c : Channel) (e : CacheEntry) : (s.cacheEntry c e).fresh = s.fresh := rfl
@[simp] theorem State.cacheEntry_link (c : Channel) (e : CacheEntry) : (s.cacheEntry c e).session.link = s.session.link := rfl
@[simp] theorem State.cacheEntry_activity (c : Channel) (e : CacheEntry) : (s.cacheEntry c e).session.activity = s.session.activity := rfl
@[simp] theorem State.cacheEntry_cache (c : Channel) (e : CacheEntry) : (s.cacheEntry c e).session.cache = s.session.cache.set c (some e) := rfl
@[simp] theorem State.cacheEntry_result (c : Channel) (e : CacheEntry) : (s.cacheEntry c e).session.result = s.session.result := rfl
@[simp] theorem State.cacheEntry_trace (c : Channel) (e : CacheEntry) : (s.cacheEntry c e).session.trace = s.session.trace := rfl

/-! ### State.connect -/

@[simp] theorem State.connect_inputs (k : Connection) : (s.connect k).inputs = s.inputs := rfl
@[simp] theorem State.connect_rb (k : Connection) : (s.connect k).rb = s.rb := rfl
@[simp] theorem State.connect_select (k : Connection) : (s.connect k).select = s.select := rfl
@[simp] theorem State.connect_presented (k : Connection) : (s.connect k).presented = s.presented := rfl
@[simp] theorem State.connect_out (k : Connection) : (s.connect k).out = s.out := rfl
@[simp] theorem State.connect_device (k : Connection) : (s.connect k).device = s.device := rfl
@[simp] theorem State.connect_fresh (k : Connection) : (s.connect k).fresh = s.fresh := rfl
@[simp] theorem State.connect_link (k : Connection) : (s.connect k).session.link = .connected k := rfl
@[simp] theorem State.connect_activity (k : Connection) : (s.connect k).session.activity = s.session.activity := rfl
@[simp] theorem State.connect_cache (k : Connection) : (s.connect k).session.cache = s.session.cache := rfl
@[simp] theorem State.connect_result (k : Connection) : (s.connect k).session.result = s.session.result := rfl
@[simp] theorem State.connect_trace (k : Connection) : (s.connect k).session.trace = s.session.trace := rfl

/-! ### State.changeDevice -/

@[simp] theorem State.changeDevice_inputs (g : Nat → Device → Device) : (s.changeDevice g).inputs = s.inputs := rfl
@[simp] theorem State.changeDevice_rb (g : Nat → Device → Device) : (s.changeDevice g).rb = s.rb := rfl
@[simp] theorem State.changeDevice_select (g : Nat → Device → Device) : (s.changeDevice g).select = s.select := rfl
@[simp] theorem State.changeDevice_presented (g : Nat → Device → Device) : (s.changeDevice g).presented = s.presented := rfl
@[simp] theorem State.changeDevice_out (g : Nat → Device → Device) : (s.changeDevice g).out = s.out := rfl
@[simp] theorem State.changeDevice_session (g : Nat → Device → Device) : (s.changeDevice g).session = s.session := rfl
@[simp] theorem State.changeDevice_device (g : Nat → Device → Device) : (s.changeDevice g).device = g s.fresh s.device := rfl
@[simp] theorem State.changeDevice_fresh (g : Nat → Device → Device) : (s.changeDevice g).fresh = s.fresh + 1 := rfl

/-! ### State.latchDevice and State.withFetchWord -/

@[simp] theorem State.latchDevice_inputs (p : PerChannel Bool) : (s.latchDevice p).inputs = s.inputs := rfl
@[simp] theorem State.latchDevice_rb (p : PerChannel Bool) : (s.latchDevice p).rb = s.rb := rfl
@[simp] theorem State.latchDevice_select (p : PerChannel Bool) : (s.latchDevice p).select = s.select := rfl
@[simp] theorem State.latchDevice_presented (p : PerChannel Bool) : (s.latchDevice p).presented = s.presented := rfl
@[simp] theorem State.latchDevice_out (p : PerChannel Bool) : (s.latchDevice p).out = s.out := rfl
@[simp] theorem State.latchDevice_session (p : PerChannel Bool) : (s.latchDevice p).session = s.session := rfl
@[simp] theorem State.latchDevice_device (p : PerChannel Bool) : (s.latchDevice p).device = Device.latch p s.device := rfl
@[simp] theorem State.latchDevice_fresh (p : PerChannel Bool) : (s.latchDevice p).fresh = s.fresh := rfl

/-! ### Four-channel tuples -/

@[simp] theorem PerChannel.get_set_self {α : Type} (p : PerChannel α) (c : Channel) (x : α) : (p.set c x).get c = x := by
  cases c <;> rfl

theorem PerChannel.get_set_of_ne {α : Type} (p : PerChannel α) {c d : Channel} (x : α) (h : d ≠ c) :
    (p.set c x).get d = p.get d := by
  cases c <;> cases d <;> first | rfl | exact absurd rfl h

@[simp] theorem PerChannel.get_tabulate {α : Type} (f : Channel → α) (c : Channel) :
    (PerChannel.tabulate f).get c = f c := by
  cases c <;> rfl

theorem PerChannel.ext_get {α : Type} {p q : PerChannel α} (h : ∀ c, p.get c = q.get c) : p = q := by
  have hA := h .A
  have hB := h .B
  have hC := h .C
  have hD := h .D
  cases p
  cases q
  simp_all [PerChannel.get]

end Sys2Proof.Machine
end

