-- ==== Sys2Proof/Laws/Codes.lean ====
section
/-! SUPPORT. Code points and bit fields: each mapping of codes is a bijection (10_state.md R27); the numbers that words
and command bytes are; taking a word apart and putting it together. -/

namespace Sys2Proof

/-! ### Code points -/

@[simp] theorem Channel.ofCode_code (c : Channel) : Channel.ofCode c.code = c := by cases c <;> rfl
@[simp] theorem Channel.code_ofCode (c : BitVec 2) : (Channel.ofCode c).code = c := by revert c; decide
@[simp] theorem Reference.ofCode_code (r : Reference) : Reference.ofCode r.code = r := by cases r <;> rfl
@[simp] theorem Reference.code_ofCode (c : BitVec 1) : (Reference.ofCode c).code = c := by revert c; decide
@[simp] theorem Gain.ofCode_code (g : Gain) : Gain.ofCode g.code = g := by cases g <;> rfl
@[simp] theorem Gain.code_ofCode (c : BitVec 1) : (Gain.ofCode c).code = c := by revert c; decide
@[simp] theorem PowerDown.ofCode_code (p : PowerDown) : PowerDown.ofCode p.code = p := by cases p <;> rfl
@[simp] theorem PowerDown.code_ofCode (c : BitVec 2) : (PowerDown.ofCode c).code = c := by revert c; decide

theorem Channel.code_injective {c d : Channel} : c.code = d.code ↔ c = d := by cases c <;> cases d <;> decide
theorem Reference.code_injective {c d : Reference} : c.code = d.code ↔ c = d := by cases c <;> cases d <;> decide
theorem Gain.code_injective {c d : Gain} : c.code = d.code ↔ c = d := by cases c <;> cases d <;> decide
theorem PowerDown.code_injective {c d : PowerDown} : c.code = d.code ↔ c = d := by cases c <;> cases d <;> decide

/-! ### The numbers that words and bytes are -/

theorem append_toNat {m n : Nat} (a : BitVec m) (b : BitVec n) : (a ++ b).toNat = a.toNat * 2 ^ n + b.toNat := by
  rw [BitVec.toNat_append, ← Nat.shiftLeft_add_eq_or_of_lt b.isLt, Nat.shiftLeft_eq]

theorem wordOfBytes_toNat (h l : Byte) : (wordOfBytes h l).toNat = h.toNat * 256 + l.toNat := by
  exact append_toNat h l

theorem highByte_toNat (w : SettingsWord) : (highByte w).toNat = w.toNat / 256 := by
  have := w.isLt
  simp [highByte, Nat.shiftRight_eq_div_pow]
  omega

theorem lowByte_toNat (w : SettingsWord) : (lowByte w).toNat = w.toNat % 256 := by
  simp [lowByte]

theorem fieldsWord_toNat (f : Fields) : (fieldsWord f).toNat =
    f.ref.code.toNat * 32768 + f.pd.code.toNat * 8192 + f.gain.code.toNat * 4096 + f.value.toNat := by
  rw [fieldsWord, append_toNat, append_toNat, append_toNat]
  omega

theorem swcmd_toNat (c : Channel) (u : Bool) : (swcmd c u).toNat = 64 + 2 * c.code.toNat + u.toNat := by
  cases c <;> cases u <;> rfl

/-! ### Taking apart and putting together -/

@[simp] theorem highByte_wordOfBytes (h l : Byte) : highByte (wordOfBytes h l) = h := by
  have := l.isLt
  exact BitVec.eq_of_toNat_eq (by rw [highByte_toNat, wordOfBytes_toNat]; omega)

@[simp] theorem lowByte_wordOfBytes (h l : Byte) : lowByte (wordOfBytes h l) = l := by
  have := l.isLt
  exact BitVec.eq_of_toNat_eq (by rw [lowByte_toNat, wordOfBytes_toNat]; omega)

@[simp] theorem wordOfBytes_high_low (w : SettingsWord) : wordOfBytes (highByte w) (lowByte w) = w :=
  BitVec.eq_of_toNat_eq (by rw [wordOfBytes_toNat, highByte_toNat, lowByte_toNat]; omega)

@[simp] theorem wordFields_fieldsWord (f : Fields) : wordFields (fieldsWord f) = f := by
  have hw := fieldsWord_toNat f
  obtain ⟨r, p, g, v⟩ := f
  have hv := v.isLt
  have hg := g.code.isLt
  have hp := p.code.isLt
  have hr := r.code.isLt
  dsimp only at hw
  have er : (fieldsWord ⟨r, p, g, v⟩).extractLsb' 15 1 = r.code :=
    BitVec.eq_of_toNat_eq (by simp only [BitVec.extractLsb'_toNat, Nat.shiftRight_eq_div_pow, hw]; omega)
  have ep : (fieldsWord ⟨r, p, g, v⟩).extractLsb' 13 2 = p.code :=
    BitVec.eq_of_toNat_eq (by simp only [BitVec.extractLsb'_toNat, Nat.shiftRight_eq_div_pow, hw]; omega)
  have eg : (fieldsWord ⟨r, p, g, v⟩).extractLsb' 12 1 = g.code :=
    BitVec.eq_of_toNat_eq (by simp only [BitVec.extractLsb'_toNat, Nat.shiftRight_eq_div_pow, hw]; omega)
  have ev : (fieldsWord ⟨r, p, g, v⟩).extractLsb' 0 12 = v :=
    BitVec.eq_of_toNat_eq (by simp only [BitVec.extractLsb'_toNat, Nat.shiftRight_eq_div_pow, hw]; omega)
  simp only [wordFields, er, ep, eg, ev, Reference.ofCode_code, Gain.ofCode_code, PowerDown.ofCode_code]

@[simp] theorem fieldsWord_wordFields (w : SettingsWord) : fieldsWord (wordFields w) = w := by
  apply BitVec.eq_of_toNat_eq
  rw [fieldsWord_toNat]
  simp only [wordFields, Reference.code_ofCode, PowerDown.code_ofCode, Gain.code_ofCode, BitVec.extractLsb'_toNat,
    Nat.shiftRight_eq_div_pow]
  omega

/-! ### Command bytes -/

/-- The eight command bytes of a sequential write (30_encoding.md R53). -/
theorem classify_swcmd (c : Channel) (u : Bool) : classify (swcmd c u) = .sequentialWrite c u := by
  cases c <;> cases u <;> decide

theorem swcmd_of_classify {b : Byte} {c : Channel} {u : Bool} (h : classify b = .sequentialWrite c u) : swcmd c u = b := by
  have key : ∀ b : Byte, (match classify b with
      | .sequentialWrite c u => decide (swcmd c u = b)
      | _ => true) = true := by decide
  simpa [h] using key b

theorem eq_of_classify_eepromCommit {b : Byte} (h : classify b = .eepromCommit) : b = 0x50 := by
  revert b; decide

theorem swcmd_injective {c d : Channel} {u v : Bool} : swcmd c u = swcmd d v ↔ c = d ∧ u = v := by
  cases c <;> cases d <;> cases u <;> cases v <;> decide

end Sys2Proof
end

