-- ==== Sys2Proof/Laws/Memory.lean ====
section
/-! SUPPORT. The laws of the read buffer: its canonical form is kept by the one operation that makes a buffer, and
reading gives back the bytes that were driven. -/

namespace Sys2Proof.Machine

@[simp] theorem Memory.ofBytes_len (bytes : List Byte) : (Memory.ofBytes bytes).len = bytes.length := rfl

theorem Memory.cellsFrom_bounds (bytes : List Byte) (a : Nat) :
    ∀ c ∈ Memory.cellsFrom a bytes, a ≤ c.1 ∧ c.1 < a + bytes.length ∧ c.2 ≠ Memory.unlisted := by
  induction bytes generalizing a with
  | nil => simp [Memory.cellsFrom]
  | cons b rest ih =>
    intro c hc
    by_cases hb : b = Memory.unlisted
    · have := ih (a + 1) c (by simpa [Memory.cellsFrom, hb] using hc)
      simp only [List.length_cons]
      exact ⟨by omega, by omega, this.2.2⟩
    · rcases (by simpa [Memory.cellsFrom, hb] using hc : c = (a, b) ∨ c ∈ Memory.cellsFrom (a + 1) rest) with rfl | h
      · simp [hb]
      · have := ih (a + 1) c h
        simp only [List.length_cons]
        exact ⟨by omega, by omega, this.2.2⟩

theorem Memory.cellsFrom_rising (bytes : List Byte) (a : Nat) :
    (Memory.cellsFrom a bytes).Pairwise (fun x y => x.1 < y.1) := by
  induction bytes generalizing a with
  | nil => simp [Memory.cellsFrom]
  | cons b rest ih =>
    by_cases hb : b = Memory.unlisted
    · simpa [Memory.cellsFrom, hb] using ih (a + 1)
    · simp only [Memory.cellsFrom, hb, if_false, List.pairwise_cons]
      exact ⟨fun c hc => (Memory.cellsFrom_bounds rest (a + 1) c hc).1, ih (a + 1)⟩

/-- Every memory operation keeps the canonical form: the one that makes a buffer gives it. -/
theorem Memory.ofBytes_wf (bytes : List Byte) : (Memory.ofBytes bytes).wf := by
  refine ⟨Memory.cellsFrom_rising bytes 0, fun c hc => ?_⟩
  have := Memory.cellsFrom_bounds bytes 0 c hc
  exact ⟨by simpa using this.2.1, this.2.2⟩

theorem Memory.lookup_of_lt {cells : List Host.Cell} {a : Nat} (h : ∀ c ∈ cells, a < c.1) :
    Memory.lookup cells a = Memory.unlisted := by
  induction cells with
  | nil => rfl
  | cons c rest ih =>
    obtain ⟨k, b⟩ := c
    have hk : a < k := h (k, b) (by simp)
    rw [Memory.lookup, if_neg (by omega)]
    exact ih fun c hc => h c (by simp [hc])

theorem Memory.lookup_cellsFrom (bytes : List Byte) (a i : Nat) :
    Memory.lookup (Memory.cellsFrom a bytes) (a + i) = bytes.getD i Memory.unlisted := by
  induction bytes generalizing a i with
  | nil => rfl
  | cons b rest ih =>
    have tail : ∀ j, Memory.lookup (Memory.cellsFrom (a + 1) rest) (a + (j + 1)) = rest.getD j Memory.unlisted := by
      intro j
      have := ih (a + 1) j
      rwa [show a + 1 + j = a + (j + 1) by omega] at this
    cases i with
    | zero =>
      by_cases hb : b = Memory.unlisted
      · rw [Memory.cellsFrom, if_pos hb, Memory.lookup_of_lt fun c hc => by
          have := (Memory.cellsFrom_bounds rest (a + 1) c hc).1
          omega]
        simp [hb]
      · simp [Memory.cellsFrom, hb, Memory.lookup]
    | succ j =>
      by_cases hb : b = Memory.unlisted
      · simpa [Memory.cellsFrom, hb] using tail j
      · rw [Memory.cellsFrom, if_neg hb, Memory.lookup, if_neg (by omega)]
        simpa using tail j

theorem Memory.byteAt_ofBytes (bytes : List Byte) (a : Nat) :
    (Memory.ofBytes bytes).byteAt a = bytes.getD a Memory.unlisted := by
  have := Memory.lookup_cellsFrom bytes 0 a
  rwa [Nat.zero_add] at this

/-- Reading a driven buffer gives back its bytes. -/
theorem Memory.read_ofBytes (bytes : List Byte) (a : Nat) : (Memory.ofBytes bytes).read a = bytes[a]? := by
  unfold Memory.read
  rw [Memory.byteAt_ofBytes]
  by_cases h : a < bytes.length
  · simp [h]
  · simp [h]

/-- Below the length, reading is `byteAt`. -/
theorem Memory.read_of_lt {m : Memory} {a : Nat} (h : a < m.len) : m.read a = some (m.byteAt a) := if_pos h

end Sys2Proof.Machine
end

