-- ==== Sys2Proof/Laws/Operands.lean ====
section
/-! SUPPORT. One spec lemma per computed output: the pseudocode's formulas equal the patterns of the formats. -/

namespace Sys2Proof.Machine

theorem value12_eq (value : Nat) : value12 value = BitVec.ofNat 12 value := by
  apply BitVec.eq_of_toNat_eq
  rw [value12, Config.valueMask, show (0x0FFF : Nat) = 2 ^ 12 - 1 from rfl, Nat.and_two_pow_sub_one_eq_mod]
  simp

theorem wordHigh_eq (w : SettingsWord) : wordHigh w = highByte w := by
  apply BitVec.eq_of_toNat_eq
  have := w.isLt
  rw [highByte_toNat]
  simp [wordHigh, Nat.shiftRight_eq_div_pow]
  omega

theorem wordLow_eq (w : SettingsWord) : wordLow w = lowByte w := by
  apply BitVec.eq_of_toNat_eq
  rw [lowByte_toNat, wordLow, BitVec.toNat_setWidth, BitVec.toNat_and, show ((0x00FF : BitVec 16)).toNat = 2 ^ 8 - 1 from rfl,
    Nat.and_two_pow_sub_one_eq_mod]
  simp

/-- The `|` of the shifted fields never merges two bits: it is the concatenation (30_encoding.md R60). -/
theorem composeWord_eq (r : Reference) (p : PowerDown) (g : Gain) (v : BitVec 12) :
    composeWord r p g v = fieldsWord ⟨r, p, g, v⟩ := by
  have key : ∀ h : BitVec 4, h.setWidth 16 <<< 12 ||| v.setWidth 16 = (h ++ v : BitVec 16) := by
    intro h
    apply BitVec.eq_of_toNat_eq
    have hv := v.isLt
    have hh := h.isLt
    have e : (h.setWidth 16 <<< 12).toNat = h.toNat <<< 12 := by
      simp [Nat.shiftLeft_eq]
      omega
    have e' : (v.setWidth 16).toNat = v.toNat := by
      simp
      omega
    rw [BitVec.toNat_or, e, e', BitVec.toNat_append]
  have hf : fieldsWord ⟨r, p, g, v⟩ = ((r.code ++ p.code ++ g.code : BitVec 4) ++ v : BitVec 16) := rfl
  rw [hf, ← key, composeWord]
  congr 1
  cases r <;> cases p <;> cases g <;> rfl

theorem swCommand_eq (c : Channel) (u : Bool) : swCommand c u = swcmd c u := by
  cases c <;> cases u <;> rfl

/-- ENCSW's frame is the pattern `01000ccu rppgvvvv vvvvvvvv` (30_encoding.md R55). -/
theorem swFrame_eq (c : Channel) (value : Nat) (r : Reference) (p : PowerDown) (g : Gain) (u : Bool) :
    swFrame c value r p g u =
      [swcmd c u, highByte (fieldsWord ⟨r, p, g, BitVec.ofNat 12 value⟩),
        lowByte (fieldsWord ⟨r, p, g, BitVec.ofNat 12 value⟩)] := by
  simp only [swFrame, swCommand_eq, composeWord_eq, value12_eq, wordHigh_eq, wordLow_eq]

/-- ENCEE's frame is `0x50` and the bytes of its words (30_encoding.md R57). -/
theorem eeFrame_eq (a b c d : SettingsWord) : eeFrame a b c d =
    [0x50, highByte a, lowByte a, highByte b, lowByte b, highByte c, lowByte c, highByte d, lowByte d] := by
  simp only [eeFrame, wordHigh_eq, wordLow_eq, Config.baseEe]

/-- DECW is the fields of the word its bytes are (30_encoding.md R54). -/
theorem decodeWord_eq (h l : Byte) : decodeWord h l = wordFields (wordOfBytes h l) := by
  have hw := wordOfBytes_toNat h l
  have hl := l.isLt
  have hh := h.isLt
  have er : (wordOfBytes h l).extractLsb' 15 1 = h.extractLsb' 7 1 :=
    BitVec.eq_of_toNat_eq (by simp only [BitVec.extractLsb'_toNat, Nat.shiftRight_eq_div_pow, hw]; omega)
  have ep : (wordOfBytes h l).extractLsb' 13 2 = h.extractLsb' 5 2 :=
    BitVec.eq_of_toNat_eq (by simp only [BitVec.extractLsb'_toNat, Nat.shiftRight_eq_div_pow, hw]; omega)
  have eg : (wordOfBytes h l).extractLsb' 12 1 = h.extractLsb' 4 1 :=
    BitVec.eq_of_toNat_eq (by simp only [BitVec.extractLsb'_toNat, Nat.shiftRight_eq_div_pow, hw]; omega)
  have ev : (wordOfBytes h l).extractLsb' 0 12 = h.extractLsb' 0 4 ++ l :=
    BitVec.eq_of_toNat_eq (by
      rw [append_toNat]
      simp only [BitVec.extractLsb'_toNat, Nat.shiftRight_eq_div_pow, hw]
      omega)
  simp only [decodeWord, wordFields, er, ep, eg, ev]

/-! ### EXTW and COMMIT -/

/-- The largest address that is formed is 20 (20_memory.md R42). -/
theorem groupBase_le (c : Channel) : groupBase c ≤ 18 := by cases c <;> decide

theorem extractWord_of_full {m : Memory} (h : m.len = 24) (c : Channel) :
    extractWord m c = .ok (m.byteAt (6 * c.code.toNat + 1), m.byteAt (6 * c.code.toNat + 2)) :=
  if_pos h

theorem extractWord_of_not_full {m : Memory} (h : m.len ≠ 24) (c : Channel) :
    extractWord m c = .invalidBufferLength m.len :=
  if_neg h

theorem commitFrame_of_full {m : Memory} (h : m.len = 24) : commitFrame m =
    .ok [0x50, m.byteAt 1, m.byteAt 2, m.byteAt 7, m.byteAt 8, m.byteAt 13, m.byteAt 14, m.byteAt 19, m.byteAt 20] := by
  simp only [commitFrame, extractWord_of_full h, CodecResult.bind, eeFrame_eq, highByte_wordOfBytes, lowByte_wordOfBytes]
  rfl

theorem commitFrame_of_not_full {m : Memory} (h : m.len ≠ 24) : commitFrame m = .invalidBufferLength m.len := by
  simp only [commitFrame, extractWord_of_not_full h, CodecResult.bind]

end Sys2Proof.Machine
end

