-- ==== Sys2Proof/Laws/Exec.lean ====
section
/-! SUPPORT. What an operation can do, said once. -/

namespace Sys2Proof.Machine

@[simp] theorem exec_encsw (c : Channel) (v : Nat) (r : Reference) (p : PowerDown) (g : Gain) (u : Option Bool) (s : State) :
    exec (.encsw c v r p g u) s = .next (s.putEncsw (swFrame c v r p g (udacOrDefault u))) := rfl

@[simp] theorem exec_decw (h l : Byte) (s : State) : exec (.decw h l) s = .next (s.putDecw (decodeWord h l)) := rfl

@[simp] theorem exec_encee (a b c d : SettingsWord) (s : State) :
    exec (.encee a b c d) s = .next (s.putEncee (eeFrame a b c d)) := rfl

theorem exec_extw_of_driven {s : State} {m : Memory} (h : s.rb = some m) (c : Channel) :
    exec (.extw c) s = .next (s.putExtw (extractWord m c)) := by
  simp only [exec, execExtw, h]

theorem exec_extw_of_undriven {s : State} (h : s.rb = none) (c : Channel) :
    exec (.extw c) s = .refused (.inputAbsent "RB") := by
  simp only [exec, execExtw, h]

theorem exec_commit_of_driven {s : State} {m : Memory} (h : s.rb = some m) :
    exec .commit s = .next (s.putCommit (commitFrame m)) := by
  simp only [exec, execCommit, h]

theorem exec_commit_of_undriven {s : State} (h : s.rb = none) : exec .commit s = .refused (.inputAbsent "RB") := by
  simp only [exec, execCommit, h]

/-- Everything an operation that completes can have done. -/
theorem exec_cases {i : Instr} {s t : State} (h : exec i s = .next t) :
    (∃ c v r p g u, i = .encsw c v r p g u ∧ t = s.putEncsw (swFrame c v r p g (udacOrDefault u))) ∨
    (∃ hi lo, i = .decw hi lo ∧ t = s.putDecw (decodeWord hi lo)) ∨
    (∃ c m, i = .extw c ∧ s.rb = some m ∧ t = s.putExtw (extractWord m c)) ∨
    (∃ a b c d, i = .encee a b c d ∧ t = s.putEncee (eeFrame a b c d)) ∨
    (∃ m, i = .commit ∧ s.rb = some m ∧ t = s.putCommit (commitFrame m)) := by
  cases i with
  | encsw c v r p g u => cases h; exact .inl ⟨c, v, r, p, g, u, rfl, rfl⟩
  | decw hi lo => cases h; exact .inr (.inl ⟨hi, lo, rfl, rfl⟩)
  | extw c =>
    cases hm : s.rb with
    | none => rw [exec_extw_of_undriven hm] at h; cases h
    | some m =>
      rw [exec_extw_of_driven hm] at h
      cases h
      exact .inr (.inr (.inl ⟨c, m, rfl, rfl, rfl⟩))
  | encee a b c d => cases h; exact .inr (.inr (.inr (.inl ⟨a, b, c, d, rfl, rfl⟩)))
  | commit =>
    cases hm : s.rb with
    | none => rw [exec_commit_of_undriven hm] at h; cases h
    | some m =>
      rw [exec_commit_of_driven hm] at h
      cases h
      exact .inr (.inr (.inr (.inr ⟨m, rfl, rfl, rfl⟩)))

/-- An operation drives an output port and changes nothing else. -/
theorem exec_next_eq {i : Instr} {s t : State} (h : exec i s = .next t) : ∃ o, t = { s with out := o } := by
  rcases exec_cases h with ⟨_, _, _, _, _, _, _, rfl⟩ | ⟨_, _, _, rfl⟩ | ⟨_, _, _, _, rfl⟩ | ⟨_, _, _, _, _, rfl⟩ |
    ⟨_, _, _, rfl⟩ <;> exact ⟨_, rfl⟩

end Sys2Proof.Machine
end

