-- ==== Sys2Proof/Laws/Frames.lean ====
section
/-! SUPPORT. The frames the block puts out are what Safety.lean says of them, and the device's reaction to each. -/

namespace Sys2Proof.Machine

theorem isSwFrame_swFrame (c : Channel) (v : Nat) (r : Reference) (p : PowerDown) (g : Gain) (u : Bool) :
    isSwFrame (swFrame c v r p g u) = true := by
  rw [swFrame_eq]
  cases c <;> cases u <;> rfl

theorem isSwFrame_settingFrame (c : Channel) (x : Setting) : isSwFrame (settingFrame c x) = true :=
  isSwFrame_swFrame ..

theorem isEeFrame_eeFrame (a b c d : SettingsWord) : isEeFrame (eeFrame a b c d) = true := by
  rw [eeFrame_eq]
  rfl

theorem isEeFrame_of_commitFrame {m : Memory} {frame : List Byte} (h : commitFrame m = .ok frame) :
    isEeFrame frame = true := by
  by_cases hl : m.len = 24
  · rw [commitFrame_of_full hl] at h
    cases h
    rfl
  · rw [commitFrame_of_not_full hl] at h
    cases h

/-- The frames at the ports are frames of the block. -/
theorem Outputs.framed.frame {o : Outputs} (h : o.framed) {op : Op} {frame : List Byte} (hf : o.frame op = some frame) :
    (isSwFrame frame || isEeFrame frame) = true := by
  cases op with
  | encsw => simp only [h.encsw _ hf, Bool.true_or]
  | decw => cases hf
  | extw => cases hf
  | encee => simp only [h.encee _ hf, Bool.or_true]
  | commit =>
    simp only [Outputs.frame, Option.bind_eq_some_iff] at hf
    obtain ⟨r, hr, hd⟩ := hf
    cases r with
    | ok f => cases hd; simp only [h.commit _ hr, Bool.or_true]
    | invalidBufferLength n => cases hd

/-- A 3-byte frame is no 9-byte frame. -/
theorem not_isEeFrame_of_isSwFrame {frame : List Byte} (h : isSwFrame frame = true) : isEeFrame frame = false := by
  unfold isSwFrame at h
  split at h
  · rfl
  · cases h

/-- The device takes every frame of ENCSW (30_encoding.md R64). -/
theorem receive_swFrame (c : Channel) (v : Nat) (r : Reference) (p : PowerDown) (g : Gain) (u : Bool) :
    Device.receive (swFrame c v r p g u) =
      some (Device.sequentialWrite c u (fieldsWord ⟨r, p, g, BitVec.ofNat 12 v⟩)) := by
  simp only [swFrame_eq, Device.receive, classify_swcmd, wordOfBytes_high_low]

/-- The device takes every frame of ENCEE. -/
theorem receive_eeFrame (a b c d : SettingsWord) :
    Device.receive (eeFrame a b c d) = some (Device.eepromCommit ⟨a, b, c, d⟩) := by
  have h : classify 0x50 = .eepromCommit := by decide
  simp only [eeFrame_eq, Device.receive, h, wordOfBytes_high_low]

/-- Every frame the device takes is a sequential write or an EEPROM commit. -/
theorem receive_cases {frame : List Byte} {g : Nat → Device → Device} (h : Device.receive frame = some g) :
    (∃ b0 b1 b2 c u, frame = [b0, b1, b2] ∧ classify b0 = .sequentialWrite c u ∧
      g = Device.sequentialWrite c u (wordOfBytes b1 b2)) ∨
    (isEeFrame frame = true ∧ ∃ words, g = Device.eepromCommit words) := by
  unfold Device.receive at h
  split at h
  · split at h
    · cases h; exact .inl ⟨_, _, _, _, _, rfl, ‹_›, rfl⟩
    · cases h
  · split at h
    · cases h
      exact .inr ⟨by simp [isEeFrame, eq_of_classify_eepromCommit ‹_›], _, rfl⟩
    · cases h
  · cases h

/-- A commit leaves the words in effect. -/
@[simp] theorem eepromCommit_output (words : PerChannel SettingsWord) (n : Nat) (d : Device) (c : Channel) :
    ((Device.eepromCommit words n d).get c).output = (d.get c).output := by
  simp only [Device.eepromCommit, PerChannel.get_tabulate]

/-- A read of the device leaves the words in effect. -/
@[simp] theorem refreshHeaders_output (n : Nat) (d : Device) (c : Channel) :
    ((Device.refreshHeaders n d).get c).output = (d.get c).output := by
  simp only [Device.refreshHeaders, PerChannel.get_tabulate]

/-- The one way a sequential write reaches an output: to its channel, at once (70 R142). -/
theorem sequentialWrite_output (chan : Channel) (u : Bool) (w : SettingsWord) (n : Nat) (d : Device) (c : Channel) :
    ((Device.sequentialWrite chan u w n d).get c).output =
      if c = chan ∧ u = Config.bit0OneMeansImmediate then w else (d.get c).output := by
  by_cases hc : c = chan
  · subst hc
    simp only [Device.sequentialWrite, PerChannel.get_set_self, DeviceChannel.take, takesEffectAtOnce, beq_iff_eq,
      true_and]
    split <;> rfl
  · simp only [Device.sequentialWrite, PerChannel.get_set_of_ne _ _ hc, hc, false_and, if_false]

/-- The device's read-back is one full read (20_memory.md R33). -/
theorem readBack_length (n : Nat) (d : Device) : (Device.readBack n d).length = 24 := rfl

/-- The word of a channel in the device's read-back is its input register (20_memory.md R33). -/
theorem readBack_word (n : Nat) (d : Device) (c : Channel) (x : Byte) :
    wordOfBytes ((Device.readBack n d).getD (6 * c.code.toNat + 1) x)
      ((Device.readBack n d).getD (6 * c.code.toNat + 2) x) = (d.get c).inputReg := by
  rw [← wordOfBytes_high_low (d.get c).inputReg, ← wordHigh_eq, ← wordLow_eq]
  cases c <;> rfl

/-- A read of the device leaves the input registers. -/
@[simp] theorem refreshHeaders_inputReg (n : Nat) (d : Device) (c : Channel) :
    ((Device.refreshHeaders n d).get c).inputReg = (d.get c).inputReg := by
  simp only [Device.refreshHeaders, PerChannel.get_tabulate]

end Sys2Proof.Machine
end

