-- ==== Sys2Proof/Laws/PerInstr.lean ====
section
/-! SUPPORT. Facts about every operation as syntax, one lemma per constructor. -/

namespace Sys2Proof.Laws.CanonicalForm

/-- The canonical form of an operation is well formed, and is its own canonical form. -/
def Statement (i : Instr) : Prop := i.canonical.wellFormed = true ∧ i.canonical.canonical = i.canonical

theorem encsw (chan : Channel) (value : Nat) (ref : Reference) (pd : PowerDown) (gain : Gain) (udac : Option Bool) :
    Statement (.encsw chan value ref pd gain udac) := by
  have : value % 4096 ≤ 4095 := by omega
  exact ⟨decide_eq_true this, by simp [Instr.canonical, udacOrDefault]⟩

theorem decw (rawHigh rawLow : Byte) : Statement (.decw rawHigh rawLow) := ⟨rfl, rfl⟩

theorem extw (chan : Channel) : Statement (.extw chan) := ⟨rfl, rfl⟩

theorem encee (wordA wordB wordC wordD : SettingsWord) : Statement (.encee wordA wordB wordC wordD) := ⟨rfl, rfl⟩

theorem commit : Statement .commit := ⟨rfl, rfl⟩

end Sys2Proof.Laws.CanonicalForm
end

