-- ==== Sys2Proof/Laws/Session.lean ====
section
/-! SUPPORT. What each procedure step can do, said once: if it answers a next state, then one of these cases holds. -/

namespace Sys2Proof.Machine

variable {s t : State}

theorem startOpen_cases {address bus : Nat} (h : startOpen address bus s = .next t) :
    s.session.link = .disconnected ∧ t = s.begin (.opening address bus) := by
  unfold startOpen at h
  split at h
  · cases h; exact ⟨‹_›, rfl⟩
  · cases h

theorem startSetChannel_cases {c : Channel} {x : Setting} (h : startSetChannel c x s = .next t) :
    ∃ conn, s.session.link = .connected conn ∧
      t = (s.putEncsw (settingFrame c x)).begin (.settingChannel conn c x (settingFrame c x)) := by
  unfold startSetChannel at h
  split at h
  · cases h
  · cases h; exact ⟨_, ‹_›, rfl⟩

theorem startSave_cases (h : startSave s = .next t) :
    ∃ conn, s.session.link = .connected conn ∧ t = s.begin (.saveReading conn) := by
  unfold startSave at h
  split at h
  · cases h
  · cases h; exact ⟨_, ‹_›, rfl⟩

/-- A call completes only when no procedure is in progress, and begins one. -/
theorem startCall_cases {c : Call} (h : startCall c s = .next t) : s.session.activity = .idle ∧
    ((∃ address bus, c = .openSession address bus ∧ startOpen address bus s = .next t) ∨
      (∃ chan x, c = .setChannel chan x ∧ startSetChannel chan x s = .next t) ∨
      (c = .saveToEeprom ∧ startSave s = .next t)) := by
  unfold startCall at h
  split at h
  · refine ⟨‹_›, ?_⟩
    cases c with
    | openSession address bus => exact .inl ⟨address, bus, rfl, h⟩
    | setChannel chan x => exact .inr (.inl ⟨chan, x, rfl, h⟩)
    | saveToEeprom => exact .inr (.inr ⟨rfl, h⟩)
  · cases h

/-- A delivery changes at most the device's headers and the counter. -/
theorem delivery_cases {a : Answer} {bytes : List Byte} {s' : State} (h : s.delivery a = some (bytes, s')) :
    (a = .delivered bytes ∧ s' = s) ∨
    (a = .deviceRead ∧ s' = s.changeDevice Device.refreshHeaders ∧
      bytes = Device.readBack s.fresh (Device.refreshHeaders s.fresh s.device)) := by
  cases a <;> simp only [State.delivery] at h <;> cases h
  · exact .inl ⟨rfl, rfl⟩
  · exact .inr ⟨rfl, rfl, rfl⟩

theorem delivery_frame {a : Answer} {bytes : List Byte} {s' : State} (h : s.delivery a = some (bytes, s')) :
    s'.inputs = s.inputs ∧ s'.rb = s.rb ∧ s'.out = s.out ∧ s'.session = s.session ∧
      s'.select = s.select ∧ s'.presented = s.presented := by
  rcases delivery_cases h with ⟨_, rfl⟩ | ⟨_, rfl, _⟩ <;> exact ⟨rfl, rfl, rfl, rfl, rfl, rfl⟩

theorem answerOpening_cases {address bus : Nat} {a : Answer} (h : answerOpening address bus a s = .next t) :
    (∃ handle, a = .opened handle ∧
      t = ((s.record (.openBus bus address) true).connect ⟨bus, handle⟩).begin (.seeding ⟨bus, handle⟩)) ∨
    (a = .deviceNotFound ∧ t = (s.record (.openBus bus address) false).finish (.failed .connectionError)) := by
  cases a <;> simp only [answerOpening] at h <;> cases h
  · exact .inl ⟨_, rfl, rfl⟩
  · exact .inr ⟨rfl, rfl⟩

theorem answerSeeding_cases {conn : Connection} {a : Answer} (h : answerSeeding conn a s = .next t) :
    (∃ bytes s', s.delivery a = some (bytes, s') ∧
      t = (seedCache (Memory.ofBytes bytes)
        ((s'.record (.read conn 24) true).driveBuffer (Memory.ofBytes bytes))).finish .success) ∨
    (a = .transportError ∧ t = (s.record (.read conn 24) false).finish .success) := by
  unfold answerSeeding at h
  split at h
  · cases h; exact .inl ⟨_, _, ‹_›, rfl⟩
  · cases a <;> simp only at h <;> cases h
    exact .inr ⟨rfl, rfl⟩

theorem answerSettingChannel_cases {conn : Connection} {c : Channel} {x : Setting} {frame : List Byte} {a : Answer}
    (h : answerSettingChannel conn c x frame a s = .next t) :
    (a = .written ∧
      t = (((s.record (.write conn frame) true).deviceTakes frame).cacheEntry c ⟨x.value, x.ref, x.pd, x.gain⟩).finish
        .success) ∨
    (a = .transportError ∧
      t = ((s.record (.write conn frame) false).changeDevice (Device.failedWrite c)).finish
        (.failed .writeErrorSetChannel)) := by
  cases a <;> simp only [answerSettingChannel] at h <;> cases h
  · exact .inl ⟨rfl, rfl⟩
  · exact .inr ⟨rfl, rfl⟩

theorem answerSaveReading_cases {conn : Connection} {a : Answer} (h : answerSaveReading conn a s = .next t) :
    (∃ bytes s', s.delivery a = some (bytes, s') ∧
      t = commitRead conn (Memory.ofBytes bytes)
        ((s'.record (.read conn 24) true).driveBuffer (Memory.ofBytes bytes))) ∨
    (a = .transportError ∧ t = (s.record (.read conn 24) false).finish (.failed .readError)) := by
  unfold answerSaveReading at h
  split at h
  · cases h; exact .inl ⟨_, _, ‹_›, rfl⟩
  · cases a <;> simp only at h <;> cases h
    exact .inr ⟨rfl, rfl⟩

theorem answerSaveWriting_cases {conn : Connection} {frame : List Byte} {a : Answer}
    (h : answerSaveWriting conn frame a s = .next t) :
    (a = .written ∧ t = ((s.record (.write conn frame) true).deviceTakes frame).finish .success) ∨
    (a = .transportError ∧ t = ((s.record (.write conn frame) false).changeDevice Device.failedCommit).finish
      (.failed .writeErrorEepromCommit)) := by
  cases a <;> simp only [answerSaveWriting] at h <;> cases h
  · exact .inl ⟨rfl, rfl⟩
  · exact .inr ⟨rfl, rfl⟩

/-- An answer completes only for the transaction that is outstanding. -/
theorem takeAnswer_cases {a : Answer} (h : takeAnswer a s = .next t) :
    (∃ address bus, s.session.activity = .opening address bus ∧ answerOpening address bus a s = .next t) ∨
    (∃ conn, s.session.activity = .seeding conn ∧ answerSeeding conn a s = .next t) ∨
    (∃ conn c x frame, s.session.activity = .settingChannel conn c x frame ∧
      answerSettingChannel conn c x frame a s = .next t) ∨
    (∃ conn, s.session.activity = .saveReading conn ∧ answerSaveReading conn a s = .next t) ∨
    (∃ conn frame, s.session.activity = .saveWriting conn frame ∧ answerSaveWriting conn frame a s = .next t) := by
  unfold takeAnswer at h
  split at h
  · cases h
  · exact .inl ⟨_, _, ‹_›, h⟩
  · exact .inr (.inl ⟨_, ‹_›, h⟩)
  · exact .inr (.inr (.inl ⟨_, _, _, _, ‹_›, h⟩))
  · exact .inr (.inr (.inr (.inl ⟨_, ‹_›, h⟩)))
  · exact .inr (.inr (.inr (.inr ⟨_, _, ‹_›, h⟩)))

/-! ### The shared pieces -/

/-- A frame the device takes changes it as it says; any other leaves it. -/
theorem deviceTakes_cases (frame : List Byte) :
    (∃ g, Device.receive frame = some g ∧ s.deviceTakes frame = s.changeDevice g) ∨ s.deviceTakes frame = s := by
  unfold State.deviceTakes
  split
  · exact .inl ⟨_, ‹_›, rfl⟩
  · exact .inr rfl

/-- What `setChannel`'s own frame does to the device (70 R135, R142). -/
theorem deviceTakes_settingFrame (c : Channel) (x : Setting) : s.deviceTakes (settingFrame c x) =
    s.changeDevice (Device.sequentialWrite c (udacOrDefault x.udac)
      (fieldsWord ⟨x.ref, x.pd, x.gain, BitVec.ofNat 12 x.value⟩)) := by
  simp only [State.deviceTakes, settingFrame, receive_swFrame]

/-- A read delivers without a change to the words in effect. -/
theorem delivery_output {a : Answer} {bytes : List Byte} {s' : State} (h : s.delivery a = some (bytes, s')) (c : Channel) :
    (s'.device.get c).output = (s.device.get c).output := by
  rcases delivery_cases h with ⟨_, rfl⟩ | ⟨_, rfl, _⟩
  · rfl
  · exact refreshHeaders_output ..

/-- `saveToEeprom` goes on without a change to the device. -/
@[simp] theorem commitRead_device (conn : Connection) (m : Memory) : (commitRead conn m s).device = s.device := by
  unfold commitRead
  split <;> rfl

@[simp] theorem commitRead_select (conn : Connection) (m : Memory) : (commitRead conn m s).select = s.select := by
  unfold commitRead
  split <;> rfl

@[simp] theorem commitRead_presented (conn : Connection) (m : Memory) : (commitRead conn m s).presented = s.presented := by
  unfold commitRead
  split <;> rfl

@[simp] theorem deviceTakes_session (frame : List Byte) : (s.deviceTakes frame).session = s.session := by
  unfold State.deviceTakes
  split <;> rfl

@[simp] theorem deviceTakes_out (frame : List Byte) : (s.deviceTakes frame).out = s.out := by
  unfold State.deviceTakes
  split <;> rfl

@[simp] theorem deviceTakes_select (frame : List Byte) : (s.deviceTakes frame).select = s.select := by
  unfold State.deviceTakes
  split <;> rfl

@[simp] theorem deviceTakes_presented (frame : List Byte) : (s.deviceTakes frame).presented = s.presented := by
  unfold State.deviceTakes
  split <;> rfl

@[simp] theorem deviceTakes_rb (frame : List Byte) : (s.deviceTakes frame).rb = s.rb := by
  unfold State.deviceTakes
  split <;> rfl

@[simp] theorem deviceTakes_inputs (frame : List Byte) : (s.deviceTakes frame).inputs = s.inputs := by
  unfold State.deviceTakes
  split <;> rfl

/-- `saveToEeprom` with a full buffer goes on to write the frame of the eight word bytes (43 R105). -/
theorem commitRead_of_full {conn : Connection} {m : Memory} (h : m.len = 24) : commitRead conn m s =
    (s.putCommit (.ok [0x50, m.byteAt 1, m.byteAt 2, m.byteAt 7, m.byteAt 8, m.byteAt 13, m.byteAt 14, m.byteAt 19,
      m.byteAt 20])).begin (.saveWriting conn [0x50, m.byteAt 1, m.byteAt 2, m.byteAt 7, m.byteAt 8, m.byteAt 13, m.byteAt 14,
        m.byteAt 19, m.byteAt 20]) := by
  simp only [commitRead, commitFrame_of_full h]

theorem commitRead_of_not_full {conn : Connection} {m : Memory} (h : m.len ≠ 24) : commitRead conn m s =
    (s.putCommit (.invalidBufferLength m.len)).finish (.failed (.invalidBufferLength m.len)) := by
  simp only [commitRead, commitFrame_of_not_full h]

/-- Seeding changes the session's cache and the ports of EXTW and DECW. -/
theorem seedChannel_frame (m : Memory) (c : Channel) :
    (seedChannel m s c).inputs = s.inputs ∧ (seedChannel m s c).rb = s.rb ∧ (seedChannel m s c).device = s.device ∧
    (seedChannel m s c).fresh = s.fresh ∧ (seedChannel m s c).session.link = s.session.link ∧
    (seedChannel m s c).session.activity = s.session.activity ∧
    (seedChannel m s c).session.result = s.session.result ∧ (seedChannel m s c).session.trace = s.session.trace ∧
    (seedChannel m s c).out.encsw = s.out.encsw ∧ (seedChannel m s c).out.encee = s.out.encee ∧
    (seedChannel m s c).out.commit = s.out.commit ∧ (seedChannel m s c).select = s.select ∧
    (seedChannel m s c).presented = s.presented := by
  unfold seedChannel
  split <;> exact ⟨rfl, rfl, rfl, rfl, rfl, rfl, rfl, rfl, rfl, rfl, rfl, rfl, rfl⟩

theorem seedCache_frame (m : Memory) :
    (seedCache m s).inputs = s.inputs ∧ (seedCache m s).rb = s.rb ∧ (seedCache m s).device = s.device ∧
    (seedCache m s).fresh = s.fresh ∧ (seedCache m s).session.link = s.session.link ∧
    (seedCache m s).session.activity = s.session.activity ∧
    (seedCache m s).session.result = s.session.result ∧ (seedCache m s).session.trace = s.session.trace ∧
    (seedCache m s).out.encsw = s.out.encsw ∧ (seedCache m s).out.encee = s.out.encee ∧
    (seedCache m s).out.commit = s.out.commit ∧ (seedCache m s).select = s.select ∧
    (seedCache m s).presented = s.presented := by
  simp only [seedCache, List.foldl_cons, List.foldl_nil, seedChannel_frame, and_self]

/-- A full buffer seeds every channel's entry with the fields of its word (70 R134 step 4). -/
theorem seedCache_of_full {m : Memory} (h : m.len = 24) (c : Channel) :
    (seedCache m s).session.cache.get c =
      (let f := decodeWord (m.byteAt (6 * c.code.toNat + 1)) (m.byteAt (6 * c.code.toNat + 2))
       some ⟨f.value.toNat, f.ref, f.pd, f.gain⟩) := by
  simp only [seedCache, List.foldl_cons, List.foldl_nil, seedChannel, extractWord_of_full h, State.cacheEntry_cache,
    State.putDecw_session, State.putExtw_session]
  cases c <;> rfl

/-- Any other buffer leaves the cache as it was. -/
theorem seedCache_of_not_full {m : Memory} (h : m.len ≠ 24) :
    (seedCache m s).session.cache = s.session.cache := by
  simp only [seedCache, List.foldl_cons, List.foldl_nil, seedChannel, extractWord_of_not_full h, State.putExtw_session]

end Sys2Proof.Machine
end

