-- ==== Sys2Proof/Laws/Step.lean ====
section
/-! SUPPORT. What a step can do, said once: it takes the oldest input, and each input does one of these things. -/

namespace Sys2Proof.Machine

variable {s t : State}

/-- A step with an input takes the oldest one. -/
theorem step_of_inputs {x : Input} {rest : List Input} (h : s.inputs = x :: rest) :
    step s = takeInput x { s with inputs := rest } := by
  simp only [step, nextInput, h]

/-- A step that completes has taken the oldest input. -/
theorem step_cases (h : step s = .next t) :
    ∃ x rest, s.inputs = x :: rest ∧ takeInput x { s with inputs := rest } = .next t := by
  cases hi : s.inputs with
  | nil => simp only [step, nextInput, hi] at h; cases h
  | cons x rest => exact ⟨x, rest, rfl, (step_of_inputs hi).symm.trans h⟩

/-- Presented bytes that complete are an operation's, and that operation completes. -/
theorem present_cases {op : Op} {bytes : List Byte} (h : present op bytes s = .next t) :
    ∃ i, decode op bytes = .ok i ∧ exec i s = .next t := by
  unfold present at h
  split at h
  · exact ⟨_, ‹_›, h⟩
  · cases h

/-- Taking the first bytes of a frame gives them in ascending order, each once. -/
theorem takeBytes_eq {op : Op} {frame : List Byte} (hf : s.out.frame op = some frame) (count : Nat)
    (hc : count ≤ frame.length) : s.takeBytes op count =
      { s with select := if count = 0 then s.select else some ⟨op, count - 1⟩, presented := frame.take count } := by
  induction count with
  | zero => rfl
  | succ n ih =>
    have e : s.takeBytes op (n + 1) = State.takeByte op (s.takeBytes op n) n := by
      simp only [State.takeBytes, List.range_succ, List.foldl_append, List.foldl_cons, List.foldl_nil]
    have hn : n < frame.length := hc
    rw [e, ih (Nat.le_of_lt hn)]
    simp only [State.takeByte, State.serialByte, State.selectAt, Option.bind_some, hf, List.take_add_one,
      Nat.add_sub_cancel, Nat.succ_ne_zero, if_false]

/-- A presentation puts out the unit's whole frame, and changes nothing but the position input and the record. -/
theorem presentFrame_of_frame {op : Op} {frame : List Byte} (hf : s.out.frame op = some frame) : presentFrame op s =
    .next { s with select := if frame.length = 0 then s.select else some ⟨op, frame.length - 1⟩, presented := frame } := by
  simp only [presentFrame, hf, takeBytes_eq hf _ (Nat.le_refl _), List.take_length]

theorem presentFrame_cases {op : Op} (h : presentFrame op s = .next t) :
    ∃ frame x, s.out.frame op = some frame ∧ t = { s with select := x, presented := frame } := by
  cases hf : s.out.frame op with
  | none => simp only [presentFrame, hf] at h; cases h
  | some frame => rw [presentFrame_of_frame hf] at h; cases h; exact ⟨frame, _, rfl, rfl⟩

theorem receiveFrame_cases {frame : List Byte} (h : s.receiveFrame frame = .next t) :
    ∃ g, Device.receive frame = some g ∧ t = s.changeDevice g := by
  unfold State.receiveFrame at h
  split at h
  · cases h; exact ⟨_, ‹_›, rfl⟩
  · cases h

/-- Everything an input that completes can have done. -/
theorem takeInput_cases {x : Input} (h : takeInput x s = .next t) :
    (∃ i, (x = .evaluate i ∨ ∃ op bytes, x = .present op bytes ∧ decode op bytes = .ok i) ∧ exec i s = .next t) ∨
    (∃ bytes, x = .driveBuffer bytes ∧ t = s.driveBuffer (Memory.ofBytes bytes)) ∨
    (∃ op position, x = .selectByte op position ∧ t = s.selectAt op position) ∨
    (∃ op, x = .presentFrame op ∧ presentFrame op s = .next t) ∨
    (∃ c, x = .call c ∧ startCall c s = .next t) ∨
    (∃ a, x = .answer a ∧ takeAnswer a s = .next t) ∨
    (∃ channels, x = .latch channels ∧ t = s.latchDevice channels) ∨
    (x = .powerUp ∧ t = s.changeDevice Device.powerUp) ∨
    (∃ frame g, x = .foreignFrame frame ∧ Device.receive frame = some g ∧ t = s.changeDevice g) := by
  cases x with
  | present op bytes => obtain ⟨i, hd, hi⟩ := present_cases h; exact .inl ⟨i, .inr ⟨op, bytes, rfl, hd⟩, hi⟩
  | evaluate i => exact .inl ⟨i, .inl rfl, h⟩
  | driveBuffer bytes => cases h; exact .inr (.inl ⟨bytes, rfl, rfl⟩)
  | selectByte op position => cases h; exact .inr (.inr (.inl ⟨op, position, rfl, rfl⟩))
  | presentFrame op => exact .inr (.inr (.inr (.inl ⟨op, rfl, h⟩)))
  | call c => exact .inr (.inr (.inr (.inr (.inl ⟨c, rfl, h⟩))))
  | answer a => exact .inr (.inr (.inr (.inr (.inr (.inl ⟨a, rfl, h⟩)))))
  | latch channels => cases h; exact .inr (.inr (.inr (.inr (.inr (.inr (.inl ⟨channels, rfl, rfl⟩))))))
  | powerUp => cases h; exact .inr (.inr (.inr (.inr (.inr (.inr (.inr (.inl ⟨rfl, rfl⟩)))))))
  | foreignFrame frame =>
    obtain ⟨g, hg, ht⟩ := receiveFrame_cases h
    exact .inr (.inr (.inr (.inr (.inr (.inr (.inr (.inr ⟨frame, g, rfl, hg, ht⟩)))))))

/-- Only a selection drives the byte multiplexer's input, and only a presentation the environment's record, but for the
position it runs through (30_encoding.md R52; log 29). -/
theorem takeInput_serial {x : Input} (h : takeInput x s = .next t) (hp : ∀ op, x ≠ .presentFrame op) :
    t.presented = s.presented ∧ ((∀ op position, x ≠ .selectByte op position) → t.select = s.select) := by
  rcases takeInput_cases h with ⟨i, -, he⟩ | ⟨bytes, -, rfl⟩ | ⟨op, position, rfl, rfl⟩ | ⟨op, rfl, -⟩ | ⟨c, -, hc⟩ |
    ⟨a, -, ha⟩ | ⟨channels, -, rfl⟩ | ⟨-, rfl⟩ | ⟨frame, g, -, -, rfl⟩
  · obtain ⟨o, rfl⟩ := exec_next_eq he
    exact ⟨rfl, fun _ => rfl⟩
  · exact ⟨rfl, fun _ => rfl⟩
  · exact ⟨rfl, fun hs => absurd rfl (hs op position)⟩
  · exact absurd rfl (hp op)
  · obtain ⟨-, ⟨address, bus, -, hc⟩ | ⟨chan, x, -, hc⟩ | ⟨-, hc⟩⟩ := startCall_cases hc
    · obtain ⟨-, rfl⟩ := startOpen_cases hc
      exact ⟨rfl, fun _ => rfl⟩
    · obtain ⟨conn, -, rfl⟩ := startSetChannel_cases hc
      exact ⟨rfl, fun _ => rfl⟩
    · obtain ⟨conn, -, rfl⟩ := startSave_cases hc
      exact ⟨rfl, fun _ => rfl⟩
  · rcases takeAnswer_cases ha with ⟨address, bus, -, ha⟩ | ⟨conn, -, ha⟩ | ⟨conn, c, x, frame, -, ha⟩ | ⟨conn, -, ha⟩ |
      ⟨conn, frame, -, ha⟩
    · rcases answerOpening_cases ha with ⟨handle, -, rfl⟩ | ⟨-, rfl⟩ <;> exact ⟨rfl, fun _ => rfl⟩
    · rcases answerSeeding_cases ha with ⟨bytes, s', hd, rfl⟩ | ⟨-, rfl⟩
      · simp only [State.finish_presented, State.finish_select, seedCache_frame, State.driveBuffer_presented,
          State.driveBuffer_select, State.record_presented, State.record_select, delivery_frame hd, implies_true,
          and_self]
      · exact ⟨rfl, fun _ => rfl⟩
    · rcases answerSettingChannel_cases ha with ⟨-, rfl⟩ | ⟨-, rfl⟩
      · simp only [State.finish_presented, State.finish_select, State.cacheEntry_presented, State.cacheEntry_select,
          deviceTakes_presented, deviceTakes_select, State.record_presented, State.record_select, implies_true, and_self]
      · exact ⟨rfl, fun _ => rfl⟩
    · rcases answerSaveReading_cases ha with ⟨bytes, s', hd, rfl⟩ | ⟨-, rfl⟩
      · simp only [commitRead_presented, commitRead_select, State.driveBuffer_presented, State.driveBuffer_select,
          State.record_presented, State.record_select, delivery_frame hd, implies_true, and_self]
      · exact ⟨rfl, fun _ => rfl⟩
    · rcases answerSaveWriting_cases ha with ⟨-, rfl⟩ | ⟨-, rfl⟩
      · simp only [State.finish_presented, State.finish_select, deviceTakes_presented, deviceTakes_select,
          State.record_presented, State.record_select, implies_true, and_self]
      · exact ⟨rfl, fun _ => rfl⟩
  · exact ⟨rfl, fun _ => rfl⟩
  · exact ⟨rfl, fun _ => rfl⟩
  · exact ⟨rfl, fun _ => rfl⟩

/-! ### Single steps of the procedures, as equations -/

variable {rest : List Input}

theorem step_present {op : Op} {bytes : List Byte} {i : Instr} (hin : s.inputs = .present op bytes :: rest)
    (hd : decode op bytes = .ok i) : step s = exec i { s with inputs := rest } := by
  rw [step_of_inputs hin]
  simp only [takeInput, present, hd]

theorem step_evaluate {i : Instr} (hin : s.inputs = .evaluate i :: rest) : step s = exec i { s with inputs := rest } :=
  step_of_inputs hin

theorem step_selectByte {op : Op} {position : Nat} (hin : s.inputs = .selectByte op position :: rest) :
    step s = .next (({ s with inputs := rest } : State).selectAt op position) :=
  step_of_inputs hin

theorem step_presentFrame {op : Op} {frame : List Byte} (hf : s.out.frame op = some frame)
    (hin : s.inputs = .presentFrame op :: rest) : step s = .next { s with
      inputs := rest, select := if frame.length = 0 then s.select else some ⟨op, frame.length - 1⟩, presented := frame } := by
  rw [step_of_inputs hin]
  exact presentFrame_of_frame hf

theorem step_openSession {address bus : Nat} (hA : s.session.activity = .idle) (hl : s.session.link = .disconnected)
    (hin : s.inputs = .call (.openSession address bus) :: rest) :
    step s = .next (({ s with inputs := rest } : State).begin (.opening address bus)) := by
  rw [step_of_inputs hin]
  simp only [takeInput, startCall, hA, startOpen, hl]

theorem step_setChannel {c : Channel} {x : Setting} {conn : Connection} (hA : s.session.activity = .idle)
    (hl : s.session.link = .connected conn) (hin : s.inputs = .call (.setChannel c x) :: rest) :
    step s = .next ((({ s with inputs := rest } : State).putEncsw (settingFrame c x)).begin
      (.settingChannel conn c x (settingFrame c x))) := by
  rw [step_of_inputs hin]
  simp only [takeInput, startCall, hA, startSetChannel, hl]

theorem step_saveToEeprom {conn : Connection} (hA : s.session.activity = .idle) (hl : s.session.link = .connected conn)
    (hin : s.inputs = .call .saveToEeprom :: rest) :
    step s = .next (({ s with inputs := rest } : State).begin (.saveReading conn)) := by
  rw [step_of_inputs hin]
  simp only [takeInput, startCall, hA, startSave, hl]

theorem step_settingChannel_written {conn : Connection} {c : Channel} {x : Setting} {frame : List Byte}
    (hA : s.session.activity = .settingChannel conn c x frame) (hin : s.inputs = .answer .written :: rest) :
    step s = .next ((((({ s with inputs := rest } : State).record (.write conn frame) true).deviceTakes frame).cacheEntry c
      ⟨x.value, x.ref, x.pd, x.gain⟩).finish .success) := by
  rw [step_of_inputs hin]
  simp only [takeInput, takeAnswer, hA, answerSettingChannel]

theorem step_settingChannel_failed {conn : Connection} {c : Channel} {x : Setting} {frame : List Byte}
    (hA : s.session.activity = .settingChannel conn c x frame) (hin : s.inputs = .answer .transportError :: rest) :
    step s = .next (((({ s with inputs := rest } : State).record (.write conn frame) false).changeDevice
      (Device.failedWrite c)).finish (.failed .writeErrorSetChannel)) := by
  rw [step_of_inputs hin]
  simp only [takeInput, takeAnswer, hA, answerSettingChannel]

theorem step_opening_notFound {address bus : Nat} (hA : s.session.activity = .opening address bus)
    (hin : s.inputs = .answer .deviceNotFound :: rest) :
    step s = .next ((({ s with inputs := rest } : State).record (.openBus bus address) false).finish
      (.failed .connectionError)) := by
  rw [step_of_inputs hin]
  simp only [takeInput, takeAnswer, hA, answerOpening]

theorem step_opening_opened {address bus handle : Nat} (hA : s.session.activity = .opening address bus)
    (hin : s.inputs = .answer (.opened handle) :: rest) :
    step s = .next (((({ s with inputs := rest } : State).record (.openBus bus address) true).connect ⟨bus, handle⟩).begin
      (.seeding ⟨bus, handle⟩)) := by
  rw [step_of_inputs hin]
  simp only [takeInput, takeAnswer, hA, answerOpening]

theorem step_seeding_delivered {conn : Connection} {bytes : List Byte} (hA : s.session.activity = .seeding conn)
    (hin : s.inputs = .answer (.delivered bytes) :: rest) :
    step s = .next ((seedCache (.ofBytes bytes)
      ((({ s with inputs := rest } : State).record (.read conn 24) true).driveBuffer (.ofBytes bytes))).finish .success) := by
  rw [step_of_inputs hin]
  simp only [takeInput, takeAnswer, hA, answerSeeding, State.delivery, Config.readLen]

theorem step_seeding_deviceRead {conn : Connection} (hA : s.session.activity = .seeding conn)
    (hin : s.inputs = .answer .deviceRead :: rest) :
    step s = .next ((seedCache (.ofBytes (Device.readBack s.fresh (Device.refreshHeaders s.fresh s.device)))
      (((({ s with inputs := rest } : State).changeDevice Device.refreshHeaders).record (.read conn 24) true).driveBuffer
        (.ofBytes (Device.readBack s.fresh (Device.refreshHeaders s.fresh s.device))))).finish .success) := by
  rw [step_of_inputs hin]
  simp only [takeInput, takeAnswer, hA, answerSeeding, State.delivery, Config.readLen]

theorem step_seeding_failed {conn : Connection} (hA : s.session.activity = .seeding conn)
    (hin : s.inputs = .answer .transportError :: rest) :
    step s = .next ((({ s with inputs := rest } : State).record (.read conn 24) false).finish .success) := by
  rw [step_of_inputs hin]
  simp only [takeInput, takeAnswer, hA, answerSeeding, State.delivery, Config.readLen]

theorem step_saveReading_failed {conn : Connection} (hA : s.session.activity = .saveReading conn)
    (hin : s.inputs = .answer .transportError :: rest) :
    step s = .next ((({ s with inputs := rest } : State).record (.read conn 24) false).finish (.failed .readError)) := by
  rw [step_of_inputs hin]
  simp only [takeInput, takeAnswer, hA, answerSaveReading, State.delivery, Config.readLen]

theorem step_saveReading_delivered {conn : Connection} {bytes : List Byte} (hA : s.session.activity = .saveReading conn)
    (hin : s.inputs = .answer (.delivered bytes) :: rest) :
    step s = .next (commitRead conn (.ofBytes bytes)
      ((({ s with inputs := rest } : State).record (.read conn 24) true).driveBuffer (.ofBytes bytes))) := by
  rw [step_of_inputs hin]
  simp only [takeInput, takeAnswer, hA, answerSaveReading, State.delivery, Config.readLen]

theorem step_saveReading_deviceRead {conn : Connection} (hA : s.session.activity = .saveReading conn)
    (hin : s.inputs = .answer .deviceRead :: rest) :
    step s = .next (commitRead conn (.ofBytes (Device.readBack s.fresh (Device.refreshHeaders s.fresh s.device)))
      (((({ s with inputs := rest } : State).changeDevice Device.refreshHeaders).record (.read conn 24) true).driveBuffer
        (.ofBytes (Device.readBack s.fresh (Device.refreshHeaders s.fresh s.device))))) := by
  rw [step_of_inputs hin]
  simp only [takeInput, takeAnswer, hA, answerSaveReading, State.delivery, Config.readLen]

theorem step_saveWriting_written {conn : Connection} {frame : List Byte} (hA : s.session.activity = .saveWriting conn frame)
    (hin : s.inputs = .answer .written :: rest) :
    step s = .next (((({ s with inputs := rest } : State).record (.write conn frame) true).deviceTakes frame).finish
      .success) := by
  rw [step_of_inputs hin]
  simp only [takeInput, takeAnswer, hA, answerSaveWriting]

theorem step_saveWriting_failed {conn : Connection} {frame : List Byte} (hA : s.session.activity = .saveWriting conn frame)
    (hin : s.inputs = .answer .transportError :: rest) :
    step s = .next (((({ s with inputs := rest } : State).record (.write conn frame) false).changeDevice
      Device.failedCommit).finish (.failed .writeErrorEepromCommit)) := by
  rw [step_of_inputs hin]
  simp only [takeInput, takeAnswer, hA, answerSaveWriting]

theorem step_foreignFrame {frame : List Byte} {g : Nat → Device → Device} (hg : Device.receive frame = some g)
    (hin : s.inputs = .foreignFrame frame :: rest) :
    step s = .next (({ s with inputs := rest } : State).changeDevice g) := by
  rw [step_of_inputs hin]
  simp only [takeInput, State.receiveFrame, hg]

theorem step_driveBuffer {bytes : List Byte} (hin : s.inputs = .driveBuffer bytes :: rest) :
    step s = .next (({ s with inputs := rest } : State).driveBuffer (.ofBytes bytes)) :=
  step_of_inputs hin

theorem step_latch {channels : PerChannel Bool} (hin : s.inputs = .latch channels :: rest) :
    step s = .next (({ s with inputs := rest } : State).latchDevice channels) :=
  step_of_inputs hin

theorem step_powerUp (hin : s.inputs = .powerUp :: rest) :
    step s = .next (({ s with inputs := rest } : State).changeDevice Device.powerUp) :=
  step_of_inputs hin

end Sys2Proof.Machine
end

