-- ==== Sys2Proof/Tests/Slice0.lean ====
section
/-! SUPPORT. Tests. Expected results are the spec's: the vectors V, W, X, E, M, K and the programs P of
95_test_vectors.md, or words written out from the patterns of 30_encoding.md. Then, for every obligation with
hypotheses, a witness that meets them. -/

namespace Sys2Proof.Tests

open Sys2Proof Sys2Proof.Machine

/-! ### Helpers -/

/-- `RBi` of 95_test_vectors.md: byte `k` is `k`. -/
def rbi : List Byte :=
  [0x00, 0x01, 0x02, 0x03, 0x04, 0x05, 0x06, 0x07, 0x08, 0x09, 0x0A, 0x0B] ++
  [0x0C, 0x0D, 0x0E, 0x0F, 0x10, 0x11, 0x12, 0x13, 0x14, 0x15, 0x16, 0x17]

/-- `RBs` of 95_test_vectors.md. -/
def rbs : List Byte :=
  [0xC0, 0x08, 0x00, 0xC0, 0x08, 0x00] ++ [0xD0, 0x91, 0x23, 0xD0, 0x80, 0x00] ++
  [0xE0, 0x4A, 0xBC, 0xE0, 0x40, 0x00] ++ [0xF0, 0xFF, 0xFF, 0xF0, 0x0F, 0xFF]

/-- `RBs` with every header and shadow byte replaced by `FF` (vectors X6, M3). -/
def rbsFill : List Byte :=
  [0xFF, 0x08, 0x00, 0xFF, 0xFF, 0xFF] ++ [0xFF, 0x91, 0x23, 0xFF, 0xFF, 0xFF] ++
  [0xFF, 0x4A, 0xBC, 0xFF, 0xFF, 0xFF] ++ [0xFF, 0xFF, 0xFF, 0xFF, 0xFF, 0xFF]

/-- One channel of a device for the tests. -/
def channel : DeviceChannel := ⟨0x0800, 0x1234, some 0x4ABC, 0x00, 0x0800⟩

/-- A state for the tests: the start, with a device whose contents are known and with these inputs. -/
def start (inputs : List Input) : State :=
  { State.reset with inputs := inputs, device := ⟨channel, channel, channel, channel⟩ }

/-- A connection for the tests: transport 1, handle 7. -/
def bus : Connection := ⟨1, 7⟩

/-- The session of `start`, connected and doing this. -/
def doing (activity : Activity) (inputs : List Input) : State :=
  { start inputs with session := { Session.start with link := .connected bus, activity := activity } }

/-- RB is driven with these bytes. -/
def driven (bytes : List Byte) (inputs : List Input) : State :=
  { start inputs with rb := some (.ofBytes bytes) }

/-- A Channel Setting for the tests (vector V18). -/
def setting : Setting := ⟨0xABC, .vdd, .groundViaDiv100k, .x1, some true⟩

/-- The state an outcome gives, if it gives one. -/
def after : Host.Outcome State Fault Refusal → Option State
  | .next t => some t
  | .fault _ => none
  | .refused _ => none

/-! ### Well-formedness (10_state.md R23): ill-formed terms are refused -/

theorem test_wellFormed_refuses_4096 : (Instr.encsw .A 4096 .vdd .normal .x1 none).wellFormed = false := by decide

theorem test_wellFormed_takes_4095 : (Instr.encsw .A 4095 .vdd .normal .x1 none).wellFormed = true := by decide

/-! ### Decoding: words written out from 30_encoding.md R53 to R58 -/

/-- `01000ccu rppgvvvv vvvvvvvv` with cc = 10, u = 1, r = 0, pp = 10, g = 0 (vector V18). -/
theorem test_decode_encsw : decode .encsw [0b01000101, 0b01001010, 0b10111100] =
    .ok (.encsw .C 0xABC .vdd .groundViaDiv100k .x1 (some true)) := by decide

/-- The same pattern with every field at its maximum (vector V16). -/
theorem test_decode_encsw_max : decode .encsw [0b01000111, 0b11111111, 0b11111111] =
    .ok (.encsw .D 4095 .internal .groundViaDiv500k .x2 (some true)) := by decide

theorem test_decode_decw : decode .decw [0b10010001, 0b00100011] = .ok (.decw 0x91 0x23) := by decide

theorem test_decode_extw : decode .extw [0b00000010] = .ok (.extw .C) := by decide

theorem test_decode_encee : decode .encee [0b01010000, 0x01, 0x02, 0x03, 0x04, 0x05, 0x06, 0x07, 0x08] =
    .ok (.encee 0x0102 0x0304 0x0506 0x0708) := by decide

theorem test_decode_commit : decode .commit [] = .ok .commit := by decide

/-- Vectors K5, K6 and an EE command byte in a 3-byte frame; a channel index of 3 bits; wrong lengths. -/
theorem test_decode_rejects :
    decode .encee [0x51, 0, 0, 0, 0, 0, 0, 0, 0] = .error (.notProduced 0x51) ∧
    decode .encsw [0x48, 0, 0] = .error (.notProduced 0x48) ∧
    decode .encsw [0x50, 0, 0] = .error (.notProduced 0x50) ∧
    decode .extw [4] = .error (.channelOutOfRange 4) ∧
    decode .encsw [0x40, 0] = .error .inputAbsent ∧
    decode .decw [0, 0, 0] = .error .tooManyBytes ∧
    decode .commit [0] = .error .tooManyBytes := by decide

/-- Vectors K1 to K7. -/
theorem test_classify :
    classify 0x40 = .sequentialWrite .A false ∧ classify 0x47 = .sequentialWrite .D true ∧
    classify 0x45 = .sequentialWrite .C true ∧ classify 0x50 = .eepromCommit ∧
    [0x51, 0x48, 0x3F, 0x00, 0xFF, 0x52, 0x60].all (fun b => classify b == .notProduced) = true := by decide

/-! ### Table words (bit 0 is the least significant bit of the first byte) -/

/-- Byte 0 `0x40`, alone or with two zero bytes; a zero word of two bytes; a zero read buffer, in full or with no bits of
its own; byte 0 `0x50`. -/
theorem test_decodeTableWord :
    decodeTableWord 24 0x40 = some (.encsw .A 0 .vdd .normal .x1 (some false)) ∧
    decodeTableWord 8 0x40 = some (.encsw .A 0 .vdd .normal .x1 (some false)) ∧
    decodeTableWord 24 0xBC4A45 = some (.encsw .C 0xABC .vdd .groundViaDiv100k .x1 (some true)) ∧
    decodeTableWord 16 0x2391 = some (.decw 0x91 0x23) ∧
    decodeTableWord 192 0 = some (.extw .A) ∧ decodeTableWord 8 0 = some (.extw .A) ∧
    decodeTableWord 72 0x50 = some (.encee 0 0 0 0) ∧ decodeTableWord 8 0x50 = some (.encee 0 0 0 0) ∧
    decodeTableWord 24 0x48 = none := by decide

theorem test_step_table_encsw : ((after (step (State.reset.withFetchWord 24 0xBC4A45))).bind (·.out.encsw)) =
    some [0x45, 0x4A, 0xBC] := by decide

theorem test_step_table_decw : ((after (step (State.reset.withFetchWord 16 0x2391))).bind (·.out.decw)) =
    some ⟨.internal, .normal, .x2, 0x123⟩ := by decide

theorem test_step_table_extw : ((after (step (State.reset.withFetchWord 192 0x030201))).bind (·.out.extw)) =
    some (.ok (0x02, 0x03)) := by decide

theorem test_step_table_encee : ((after (step (State.reset.withFetchWord 8 0x50))).bind (·.out.encee)) =
    some [0x50, 0, 0, 0, 0, 0, 0, 0, 0] := by decide

/-! ### Operations, one step each -/

/-- Vector V5: 5000 is masked. -/
theorem test_encsw_masks : ((after (step (start [.evaluate (.encsw .A 5000 .vdd .normal .x1 none)]))).bind (·.out.encsw)) =
    some [0x40, 0x03, 0x88] := by decide

/-- Vector V19: reference and power-down, gain clear, no latch bit. -/
theorem test_encsw_fields :
    ((after (step (start [.evaluate (.encsw .D 1 .internal .groundViaDiv1k .x1 (some false))]))).bind (·.out.encsw)) =
    some [0x46, 0xA0, 0x01] := by decide

/-- Vector W15. -/
theorem test_decw : ((after (step (start [.present .decw [0x12, 0x34]]))).bind (·.out.decw)) =
    some ⟨.vdd, .normal, .x2, 564⟩ := by decide

/-- Vector W16. -/
theorem test_decw_mixed : ((after (step (start [.present .decw [0xB7, 0xFF]]))).bind (·.out.decw)) =
    some ⟨.internal, .groundViaDiv1k, .x2, 2047⟩ := by decide

/-- Vector X4. -/
theorem test_extw_D : ((after (step (driven rbi [.evaluate (.extw .D)]))).bind (·.out.extw)) =
    some (.ok (0x13, 0x14)) := by decide

/-- Vector X8: one byte short, though channel A's bytes are all there. -/
theorem test_extw_short : ((after (step (driven (rbi.take 23) [.evaluate (.extw .A)]))).bind (·.out.extw)) =
    some (.invalidBufferLength 23) := by decide

/-- Vector E5: data bytes that look like command bytes. -/
theorem test_encee : ((after (step (start [.evaluate (.encee 0x5051 0x5253 0x4041 0x4247)]))).bind (·.out.encee)) =
    some [0x50, 0x50, 0x51, 0x52, 0x53, 0x40, 0x41, 0x42, 0x47] := by decide

/-- Vector M2. -/
theorem test_commit : ((after (step (driven rbs [.evaluate .commit]))).bind (·.out.commit)) =
    some (.ok [0x50, 0x08, 0x00, 0x91, 0x23, 0x4A, 0xBC, 0xFF, 0xFF]) := by decide

/-- Vector X9's buffer: one byte too long. -/
theorem test_commit_long : ((after (step (driven (rbi ++ [0x18]) [.evaluate .commit]))).bind (·.out.commit)) =
    some (.invalidBufferLength 25) := by decide

/-- Vector E4's frame at ENCEE's port, with its bytes told apart, and position 8 of it selected. -/
def framed (inputs : List Input) : State :=
  { start inputs with
    out := { Outputs.undriven with encee := some [0x50, 1, 2, 3, 4, 5, 6, 7, 8] }, select := some ⟨.encee, 8⟩ }

/-- The last byte's position, and one past it. -/
theorem test_serial : (framed []).serialByte = some 8 ∧
    ((after (step (framed [.selectByte .encee 9]))).bind State.serialByte) = none := by decide

/-- ENCEE is evaluated anew: the byte at the position selected before is of the new frame (00_scope.md R10). -/
theorem test_serial_current :
    ((after (step (framed [.evaluate (.encee 0 0 0 0x00AA)]))).bind State.serialByte) = some 0xAA := by decide

/-- A presentation begins at byte 0, wherever the position stood. -/
theorem test_presentFrame : ((after (step (framed [.presentFrame .encee]))).map (·.presented)) =
    some [0x50, 1, 2, 3, 4, 5, 6, 7, 8] := by decide

/-! ### The session, one step each -/

/-- Program P1: the write is outstanding, of the source's own frame. -/
theorem test_setChannel : ((after (step (doing .idle [.call (.setChannel .A ⟨2048, .vdd, .normal, .x1, some false⟩)]))).map
    (·.session.activity)) =
    some (.settingChannel bus .A ⟨2048, .vdd, .normal, .x1, some false⟩ [0x40, 0x08, 0x00]) := by decide

/-- `open(0x60, 1)`: the connection is of the transport that was passed (70 R141), and so is the seeding read. -/
theorem test_open : ((after (step { start [.answer (.opened 7)] with
    session := { Session.start with activity := .opening 0x60 1 } })).map
    fun t => (t.session.link, t.session.activity, t.session.trace)) =
    some (.connected bus, .seeding bus, [⟨.openBus 1 0x60, true⟩]) := by decide

/-- Program P4, case c. -/
theorem test_save_short : ((after (step (doing (.saveReading bus) [.answer (.delivered (rbs.take 23))]))).map
    fun t => (t.session.result, t.session.trace)) =
    some (some (.failed (.invalidBufferLength 23)), [⟨.read bus 24, true⟩]) := by decide

/-- Program P3: COMMIT's frame is what is outstanding after the read. -/
theorem test_save_read : ((after (step (doing (.saveReading bus) [.answer (.delivered rbs)]))).map (·.session.activity)) =
    some (.saveWriting bus [0x50, 0x08, 0x00, 0x91, 0x23, 0x4A, 0xBC, 0xFF, 0xFF]) := by decide

/-- Program P6: the seeding of the cache. -/
theorem test_seeding : ((after (step (doing (.seeding bus) [.answer (.delivered rbs)]))).map (·.session.cache)) =
    some ⟨some ⟨2048, .vdd, .normal, .x1⟩, some ⟨291, .internal, .normal, .x2⟩,
      some ⟨2748, .vdd, .groundViaDiv100k, .x1⟩, some ⟨4095, .internal, .groundViaDiv500k, .x2⟩⟩ := by decide

/-! ### Witnesses: for every obligation with hypotheses, a state and operands that meet them all -/

theorem witness_ClassifierKnowsExactlyNineCommandBytes :
    ((0x40 : Byte) &&& 0xF8 = 0x40 ∧ (0x47 : Byte) &&& 0xF8 = 0x40) ∧ (0x50 : Byte) = 0x50 ∧
    ((0x48 : Byte) &&& 0xF8 ≠ 0x40 ∧ (0x48 : Byte) ≠ 0x50) ∧ ((0x51 : Byte) &&& 0xF8 ≠ 0x40 ∧ (0x51 : Byte) ≠ 0x50) := by
  decide

theorem witness_DecodeEncodeRoundTrip : (Instr.encsw .D 4095 .internal .groundViaDiv500k .x2 (some true)).wellFormed = true ∧
    ∀ c v r p g, Instr.encsw .D 4095 .internal .groundViaDiv500k .x2 (some true) ≠ .encsw c v r p g none := by
  refine ⟨by decide, ?_⟩
  intro c v r p g h
  injection h with _ _ _ _ _ hu
  cases hu

theorem witness_DecodedBytesAreTheEncoding : decode .encsw [0x47, 0xFF, 0xFF] =
    .ok (.encsw .D 4095 .internal .groundViaDiv500k .x2 (some true)) := by decide

/-- Inputs that agree in every byte, and inputs that differ in each. -/
theorem witness_EncswIsInjectiveAndReachesEveryFrame :
    encode (.encsw .B 1 .internal .normal .x2 (some true)) = encode (.encsw .B 4097 .internal .normal .x2 (some true)) ∧
    encode (.encsw .B 1 .internal .normal .x2 (some true)) = [0x43, 0x90, 0x01] ∧
    encode (.encsw .C 2 .internal .normal .x2 (some true)) = [0x45, 0x90, 0x02] := by decide

/-- Two words that differ only outside the bits named for each output in turn. -/
theorem witness_DecwOutputsDependOnTheirBitsOnly :
    (0x80 : Byte).getLsbD 7 = (0xFF : Byte).getLsbD 7 ∧
    (0x20 : Byte).extractLsb' 5 2 = (0xBF : Byte).extractLsb' 5 2 ∧
    (0x10 : Byte).getLsbD 4 = (0xFF : Byte).getLsbD 4 ∧
    (0x05 : Byte).extractLsb' 0 4 = (0xF5 : Byte).extractLsb' 0 4 := by decide

theorem witness_DrivenBufferIsReadBack : (start [.driveBuffer rbi, .powerUp]).inputs = .driveBuffer rbi :: [.powerUp] := rfl

theorem witness_CanonicalBufferIsUnique : (Memory.ofBytes rbi).wf ∧ (Memory.ofBytes rbi).len = 24 ∧
    (⟨24, Memory.cellsFrom 0 rbi⟩ : Memory).wf ∧ ∀ a, (Memory.ofBytes rbi).read a =
      (⟨24, Memory.cellsFrom 0 rbi⟩ : Memory).read a :=
  ⟨by decide, rfl, by decide, fun _ => rfl⟩

/-- For ExtwSelectsTheChannelsWord, ExtwThenDecwReportsTheChannel and CommitIsTheByteMap, with the first and last
channel and byte position. -/
theorem witness_ExtwSelectsTheChannelsWord : rbs.length = 24 ∧ (driven rbs []).rb = some (.ofBytes rbs) ∧
    (Channel.A, 1) ∈ [(Channel.A, 1), (.B, 7), (.C, 13), (.D, 19)] ∧
    (Channel.D, 19) ∈ [(Channel.A, 1), (.B, 7), (.C, 13), (.D, 19)] := ⟨rfl, rfl, by decide, by decide⟩

theorem witness_ExtwThenDecwReportsTheChannel : rbs.length = 24 ∧ (driven rbs []).rb = some (.ofBytes rbs) := ⟨rfl, rfl⟩

/-- Each clause: lengths 0, 23, 25 and 24. -/
theorem witness_ExtwFailsExactlyOnWrongLength :
    ((driven [] []).rb = some (.ofBytes []) ∧ ([] : List Byte).length ≠ 24) ∧
    ((driven (rbi.take 23) []).rb = some (.ofBytes (rbi.take 23)) ∧ (rbi.take 23).length ≠ 24) ∧
    ((driven (rbi ++ [0x18]) []).rb = some (.ofBytes (rbi ++ [0x18])) ∧ (rbi ++ [0x18]).length ≠ 24) ∧
    ((driven rbi []).rb = some (.ofBytes rbi) ∧ rbi.length = 24) := by
  refine ⟨⟨rfl, by decide⟩, ⟨rfl, by decide⟩, ⟨rfl, by decide⟩, rfl, rfl⟩

/-- Two buffers that differ in every header and shadow byte. -/
theorem witness_ExtwDependsOnItsWindowOnly : rbs.length = 24 ∧ rbsFill.length = 24 ∧ rbs ≠ rbsFill ∧
    (driven rbs []).rb = some (.ofBytes rbs) ∧ (driven rbsFill []).rb = some (.ofBytes rbsFill) ∧
    rbs[6 * Channel.D.code.toNat + 1]? = rbsFill[6 * Channel.D.code.toNat + 1]? ∧
    rbs[6 * Channel.D.code.toNat + 2]? = rbsFill[6 * Channel.D.code.toNat + 2]? :=
  ⟨rfl, rfl, by decide, rfl, rfl, by decide, by decide⟩

theorem witness_UndrivenBufferGivesNoResult : State.reset.rb = none := rfl

theorem witness_LengthErrorIsNotSticky : ∃ s : State, rbi.length = 24 ∧
    s.out.extw = some (.invalidBufferLength 23) ∧ s.out.commit = some (.invalidBufferLength 23) :=
  ⟨{ start [] with out := { Outputs.undriven with
      extw := some (.invalidBufferLength 23), commit := some (.invalidBufferLength 23) } }, rfl, rfl, rfl⟩

theorem witness_EnceePassesTheWordsVerbatim : ∃ t, exec (.encee 1 2 3 4) (start []) = .next t ∧
    t.out.encee = t.out.encee := ⟨_, rfl, rfl⟩

/-- Both orders, and the positions 0, 1, 8 and 9 of the clauses. -/
theorem witness_EnceeIsTheByteMultiplexer :
    (∀ xs, (start xs).inputs = xs) ∧ ((∀ i ∈ [1, 8], 1 ≤ i ∧ i ≤ 8 ∧ ∃ k : Fin 4, k.val = (i - 1) / 2) ∧ 8 < 9) :=
  ⟨fun _ => rfl, by decide, by decide⟩

/-- Each clause: a frame at the port, none, and an operation evaluated with the position selected. -/
theorem witness_SerialPresentationIsByIndex :
    ((framed [.selectByte .encee 0]).inputs = .selectByte .encee 0 :: [] ∧
      (framed [.selectByte .encee 0]).out.frame .encee = some [0x50, 1, 2, 3, 4, 5, 6, 7, 8]) ∧
    ((start [.selectByte .encsw 0]).inputs = .selectByte .encsw 0 :: [] ∧
      (start [.selectByte .encsw 0]).out.frame .encsw = none) ∧
    (∃ u frame, exec (.encee 1 2 3 4) (framed []) = .next u ∧ u.out.frame .encee = some frame) ∧
    ∃ u, exec (.decw 1 2) (start []) = .next u ∧ u.out.frame .encee = none :=
  ⟨⟨rfl, rfl⟩, ⟨rfl, rfl⟩, ⟨_, _, rfl, rfl⟩, _, rfl, rfl⟩

/-- Each clause. -/
theorem witness_FramesArePresentedInOrderEachByteOnce :
    ((framed [.presentFrame .encee, .powerUp]).inputs = .presentFrame .encee :: [.powerUp] ∧
      [(0x50 : Byte), 1, 2, 3, 4, 5, 6, 7, 8] ≠ [] ∧
      (framed [.presentFrame .encee, .powerUp]).out.frame .encee = some [0x50, 1, 2, 3, 4, 5, 6, 7, 8]) ∧
    ((start [.presentFrame .commit]).inputs = .presentFrame .commit :: [] ∧
      (start [.presentFrame .commit]).out.frame .commit = none) := ⟨⟨rfl, by decide, rfl⟩, rfl, rfl⟩

theorem witness_CommitIsTheByteMap : rbs.length = 24 ∧ (driven rbs []).rb = some (.ofBytes rbs) ∧
    (1 ≤ 1 ∧ 1 ≤ 8) ∧ (1 ≤ 8 ∧ 8 ≤ 8) := ⟨rfl, rfl, by decide, by decide⟩

theorem witness_CommitIsExtwFourTimesThenEncee :
    ((driven rbs []).rb = some (.ofBytes rbs) ∧ (Memory.ofBytes rbs).len = 24) ∧
    ((driven (rbs.take 23) []).rb = some (.ofBytes (rbs.take 23)) ∧ (Memory.ofBytes (rbs.take 23)).len ≠ 24) :=
  ⟨⟨rfl, rfl⟩, rfl, by decide⟩

theorem witness_CommitDependsOnEightBytesOnly : rbs.length = 24 ∧ rbsFill.length = 24 ∧
    (driven rbs []).rb = some (.ofBytes rbs) ∧ (driven rbsFill []).rb = some (.ofBytes rbsFill) ∧
    ∀ a ∈ [1, 2, 7, 8, 13, 14, 19, 20], rbs[a]? = rbsFill[a]? := ⟨rfl, rfl, rfl, rfl, by decide⟩

/-- Every operation, in a state with RB driven. -/
theorem witness_EveryOperationCompletes : ∀ op : Op, op = .extw ∨ op = .commit → (driven rbs []).rb ≠ none :=
  fun _ _ h => nomatch h

/-- One operation of each unit that completes. -/
theorem witness_OperationsDriveTheirOwnPortOnly :
    (∃ t, exec (.encsw .D 4095 .internal .groundViaDiv500k .x2 none) (driven rbs []) = .next t) ∧
    (∃ t, exec (.decw 0xFF 0xFF) (driven rbs []) = .next t) ∧ (∃ t, exec (.extw .D) (driven rbs []) = .next t) ∧
    (∃ t, exec (.encee 1 2 3 4) (driven rbs []) = .next t) ∧ (∃ t, exec .commit (driven rbs []) = .next t) :=
  ⟨⟨_, rfl⟩, ⟨_, rfl⟩, ⟨_, rfl⟩, ⟨_, rfl⟩, _, rfl⟩

theorem witness_OperationsArePure : (driven rbs []).rb = (driven rbs [.powerUp]).rb ∧
    (∃ t, exec (.extw .D) (driven rbs []) = .next t) ∧ (∃ u, exec (.decw 0xFF 0xFF) (driven rbs []) = .next u) :=
  ⟨rfl, ⟨_, rfl⟩, _, rfl⟩

theorem witness_EmittedFramesTellTheirLength :
    (∃ t frame, exec (.encsw .D 0 .vdd .normal .x1 none) (driven rbs []) = .next t ∧ t.out.frame .encsw = some frame) ∧
    (∃ t frame, exec (.encee 1 2 3 4) (driven rbs []) = .next t ∧ t.out.frame .encee = some frame) ∧
    (∃ t frame, exec .commit (driven rbs []) = .next t ∧ t.out.frame .commit = some frame) :=
  ⟨⟨_, _, rfl, rfl⟩, ⟨_, _, rfl, rfl⟩, _, _, rfl, rfl⟩

/-- Each clause. -/
theorem witness_StepRunsThePresentedOperation :
    ((start [.present .decw [0x91, 0x23]]).inputs = .present .decw [0x91, 0x23] :: [] ∧
      decode .decw [0x91, 0x23] = .ok (.decw 0x91 0x23)) ∧
    (start [.evaluate (.decw 0x91 0x23)]).inputs = .evaluate (.decw 0x91 0x23) :: [] ∧
    ((start [.present .encee [0x51, 0, 0, 0, 0, 0, 0, 0, 0]]).inputs = .present .encee [0x51, 0, 0, 0, 0, 0, 0, 0, 0] :: [] ∧
      decode .encee [0x51, 0, 0, 0, 0, 0, 0, 0, 0] = .error (.notProduced 0x51)) :=
  ⟨⟨rfl, by decide⟩, rfl, rfl, by decide⟩

/-- Each clause: a frame's word and a read buffer's. -/
theorem witness_StepRunsTheTableWord :
    (decodeTableWord 24 0x40 = some (.encsw .A 0 .vdd .normal .x1 (some false)) ∧ (tableWord 24 0x40).buffer = none) ∧
    (decodeTableWord 192 0x030201 = some (.extw .A) ∧
      (tableWord 192 0x030201).buffer = some (bytesOfNat 24 0x030201)) := by decide

/-- The start with a known device meets the invariant. -/
theorem start_inv (inputs : List Input) : (start inputs).Inv :=
  ⟨nofun, ⟨nofun, nofun, nofun⟩, fun h => absurd rfl h, nofun, nofun, rfl, trivial, fun _ => rfl⟩

theorem witness_EveryStepKeepsTheInvariant : (start [.powerUp]).Inv ∧ ∃ t, step (start [.powerUp]) = .next t :=
  ⟨start_inv [.powerUp], _, rfl⟩

/-- Each clause: a connected session, and a disconnected one that `open` connects. -/
theorem witness_OnlyOpenConnectsAndNothingDisconnects :
    (∃ t, step (doing .idle [.call .saveToEeprom]) = .next t ∧ (doing .idle [.call .saveToEeprom]).session.link ≠ .disconnected) ∧
    (∃ s t : State, step s = .next t ∧ s.session.link = .disconnected ∧ t.session.link ≠ .disconnected) :=
  ⟨⟨_, rfl, nofun⟩, { start [.answer (.opened 7)] with session := { Session.start with activity := .opening 0x60 1 } }, _,
    rfl, rfl, nofun⟩

/-- Both ways the cache changes. -/
theorem witness_CacheChangesOnlyOnSuccess :
    (∃ t, step (doing (.settingChannel bus .C setting [0x45, 0x4A, 0xBC]) [.answer .written]) = .next t ∧
      t.session.cache ≠ (doing (.settingChannel bus .C setting [0x45, 0x4A, 0xBC]) [.answer .written]).session.cache) ∧
    (∃ t, step (doing (.seeding bus) [.answer (.delivered rbs)]) = .next t ∧
      t.session.cache ≠ (doing (.seeding bus) [.answer (.delivered rbs)]).session.cache) :=
  ⟨⟨_, step_settingChannel_written rfl rfl, by decide⟩, _, step_seeding_delivered rfl rfl, by decide⟩

/-- Each clause: a step that takes no answer, and one that takes an answer. -/
theorem witness_TransactionsFinishOneAtATime :
    (∃ t, step (doing (.saveReading bus) [.powerUp]) = .next t ∧
      ∀ a rest, (doing (.saveReading bus) [.powerUp]).inputs ≠ .answer a :: rest) ∧
    (∃ t, step (doing (.saveReading bus) [.answer .transportError]) = .next t ∧
      (doing (.saveReading bus) [.answer .transportError]).inputs = .answer .transportError :: []) :=
  ⟨⟨_, rfl, nofun⟩, _, rfl, rfl⟩

/-- Both answers. -/
theorem witness_OpenConnectsOrReportsConnectionError : ∀ xs, (start xs).session.activity = .idle ∧
    (start xs).session.link = .disconnected ∧
    (start [.call (.openSession 0x60 1), .answer .deviceNotFound]).inputs =
      .call (.openSession 0x60 1) :: .answer .deviceNotFound :: [] ∧
    (start [.call (.openSession 0x60 1), .answer (.opened 7), .answer .transportError]).inputs =
      .call (.openSession 0x60 1) :: .answer (.opened 7) :: .answer .transportError :: [] :=
  fun _ => ⟨rfl, rfl, rfl, rfl⟩

/-- Both answers: bytes that a transport delivers, and the device's own read-back. -/
theorem witness_SeedingFillsTheCache :
    (∀ xs, (doing (.seeding bus) xs).session.activity = .seeding bus ∧ (doing (.seeding bus) xs).inputs = xs) ∧
    (∃ word : Channel → SettingsWord, rbs.length = 24 ∧ ∀ chan : Channel, ∃ hi lo,
      rbs[6 * chan.code.toNat + 1]? = some hi ∧ rbs[6 * chan.code.toNat + 2]? = some lo ∧ word chan = hi ++ lo) ∧
    (∃ word : Channel → SettingsWord, ∀ chan,
      word chan = ((doing (.seeding bus) [.answer .deviceRead]).device.get chan).inputReg) := by
  refine ⟨fun _ => ⟨rfl, rfl⟩, ⟨fun c => match c with | .A => 0x0800 | .B => 0x9123 | .C => 0x4ABC | .D => 0xFFFF, rfl, fun c => ?_⟩,
    _, fun _ => rfl⟩
  cases c <;> exact ⟨_, _, rfl, rfl, by decide⟩

/-- Both answers, and settings with either value of the latch flag, one of which is the open parameter. -/
theorem witness_SetChannelWritesTheFrameAndCachesOnSuccess : ∀ a ∈ [Answer.written, .transportError],
    (doing .idle [.call (.setChannel .C setting), .answer a]).session.activity = .idle ∧
    (doing .idle [.call (.setChannel .C setting), .answer a]).session.link = .connected bus ∧
    (a = .written ∨ a = .transportError) ∧
    (doing .idle [.call (.setChannel .C setting), .answer a]).inputs = .call (.setChannel .C setting) :: .answer a :: [] :=
  fun a h => ⟨rfl, rfl, by simpa using h, rfl⟩

theorem witness_latchFlags : ∀ p : Bool, (∃ x : Setting, x.udac.getD false = p) ∧ ∃ x : Setting, x.udac.getD false ≠ p :=
  fun p => ⟨⟨{ setting with udac := some p }, rfl⟩, { setting with udac := some !p }, by cases p <;> decide⟩

theorem witness_FailedSaveReadWritesNothing :
    (doing .idle [.call .saveToEeprom, .answer .transportError]).session.activity = .idle ∧
    (doing .idle [.call .saveToEeprom, .answer .transportError]).session.link = .connected bus ∧
    (doing .idle [.call .saveToEeprom, .answer .transportError]).inputs =
      .call .saveToEeprom :: .answer .transportError :: [] := ⟨rfl, rfl, rfl⟩

theorem witness_WrongLengthSaveReadWritesNothing : (rbs.take 23).length ≠ 24 ∧
    (doing (.saveReading bus) [.answer (.delivered (rbs.take 23))]).session.activity = .saveReading bus ∧
    (doing (.saveReading bus) [.answer (.delivered (rbs.take 23))]).inputs = .answer (.delivered (rbs.take 23)) :: [] :=
  ⟨by decide, rfl, rfl⟩

/-- Each clause, the lengths 23, 25 and 24, and both answers to the write. -/
theorem witness_SaveReadsThenWritesTheCommitFrame :
    (∀ xs, (doing .idle xs).session.activity = .idle ∧ (doing .idle xs).session.link = .connected bus ∧
      (doing .idle xs).inputs = xs) ∧
    (rbs.take 23).length ≠ 24 ∧ (rbi ++ [0x18]).length ≠ 24 ∧ rbs.length = 24 ∧
    (Answer.written = .written ∨ Answer.written = .transportError) ∧
    (Answer.transportError = .written ∨ Answer.transportError = .transportError) :=
  ⟨fun _ => ⟨rfl, rfl, rfl⟩, by decide, by decide, rfl, .inl rfl, .inr rfl⟩

/-- Each clause. -/
theorem witness_CallsOutsideTheContractAreRefused :
    (∀ xs, (start xs).session.link = .disconnected ∧ (start xs).session.activity = .idle ∧ (start xs).inputs = xs) ∧
    ((doing .idle [.call (.openSession 0x60 1)]).session.link ≠ .disconnected ∧
      (doing .idle [.call (.openSession 0x60 1)]).session.activity = .idle ∧
      (doing .idle [.call (.openSession 0x60 1)]).inputs = .call (.openSession 0x60 1) :: []) ∧
    (doing (.saveReading bus) [.call .saveToEeprom]).session.activity ≠ .idle ∧
    (doing (.saveReading bus) [.call .saveToEeprom]).inputs = .call .saveToEeprom :: [] :=
  ⟨fun _ => ⟨rfl, rfl, rfl⟩, ⟨nofun, rfl, rfl⟩, nofun, rfl⟩

theorem witness_UnansweredTransactionHangs : (doing (.seeding bus) [.answer .never]).session.activity ≠ .idle ∧
    (doing (.seeding bus) [.answer .never]).inputs = .answer .never :: [] := ⟨nofun, rfl⟩

theorem witness_SaveCopiesInputRegistersToEeprom :
    (doing (.saveReading bus) [.answer .deviceRead, .answer .written]).session.activity = .saveReading bus ∧
    (doing (.saveReading bus) [.answer .deviceRead, .answer .written]).inputs =
      .answer .deviceRead :: .answer .written :: [] := ⟨rfl, rfl⟩

theorem witness_CommittedWordsAreThoseRead : rbs.length = 24 ∧ (0x47 : Byte) &&& 0xF8 = 0x40 ∧
    (doing (.saveReading bus) [.answer (.delivered rbs), .foreignFrame [0x47, 1, 2], .answer .written]).session.activity =
      .saveReading bus ∧
    (doing (.saveReading bus) [.answer (.delivered rbs), .foreignFrame [0x47, 1, 2], .answer .written]).inputs =
      .answer (.delivered rbs) :: .foreignFrame [0x47, 1, 2] :: .answer .written :: [] :=
  ⟨rfl, by decide, rfl, rfl⟩

/-- The first and the last channel. -/
theorem witness_SequentialWriteReachesOneChannel : ∀ b ∈ [(0x40 : Byte), 0x47], b &&& 0xF8 = 0x40 ∧
    (start [.foreignFrame [b, 0x08, 0x00]]).inputs = .foreignFrame [b, 0x08, 0x00] :: [] ∧
    ∃ c : Channel, c.code ≠ b.extractLsb' 1 2 := by
  intro b hb
  simp only [List.mem_cons, List.not_mem_nil, or_false] at hb
  rcases hb with rfl | rfl
  · exact ⟨by decide, rfl, .B, by decide⟩
  · exact ⟨by decide, rfl, .A, by decide⟩

/-- Both values of the latch bit: one equals the open parameter, the other does not. -/
theorem witness_WrittenWordIsInEffectOrHeld : ∀ udac : Bool, ∃ b : Byte, b &&& 0xF8 = 0x40 ∧
    b.extractLsb' 1 2 = Channel.D.code ∧ b.getLsbD 0 = udac ∧
    (start [.foreignFrame [b, 0x08, 0x00]]).inputs = .foreignFrame [b, 0x08, 0x00] :: [] ∧
    (udac = Config.bit0OneMeansImmediate ∨ udac ≠ Config.bit0OneMeansImmediate) := by
  intro udac
  cases udac
  · exact ⟨0x46, by decide, by decide, by decide, rfl, em _⟩
  · exact ⟨0x47, by decide, by decide, by decide, rfl, em _⟩

/-- Each clause: a channel not latched, a channel latched with a pending value, a channel with none. -/
theorem witness_LatchSignalAppliesHeldValues :
    ∃ s : State, s.inputs = .latch ⟨true, true, false, false⟩ :: [] ∧
      (⟨true, true, false, false⟩ : PerChannel Bool).get .C = false ∧
      ((⟨true, true, false, false⟩ : PerChannel Bool).get .A = true ∧ (s.device.get .A).pending = some 0x4ABC) ∧
      (s.device.get .B).pending = none :=
  ⟨{ start [.latch ⟨true, true, false, false⟩] with
      device := ⟨channel, { channel with pending := none }, channel, channel⟩ }, rfl, rfl, ⟨rfl, rfl⟩, rfl⟩

/-- A latch signal changes the output of a channel with a pending value. -/
theorem witness_OutputChangesOnlyForACause : (start [.latch ⟨true, true, true, true⟩]).Inv ∧
    ∃ t, step (start [.latch ⟨true, true, true, true⟩]) = .next t ∧
      (t.device.get .D).output ≠ ((start [.latch ⟨true, true, true, true⟩]).device.get .D).output :=
  ⟨start_inv _, _, rfl, by decide⟩

/-- Each clause. -/
theorem witness_PowerUpLoadsTheEeprom : (start [.powerUp]).inputs = .powerUp :: [] ∧
    ∃ s e frame, exec (.encee 1 2 3 4) s = .next e ∧ e.out.encee = some frame ∧
      s.inputs = .foreignFrame frame :: .powerUp :: [] :=
  ⟨rfl, start [.foreignFrame (eeFrame 1 2 3 4), .powerUp], _, _, rfl, rfl, rfl⟩

/-- Each of the three inputs, and each completes. -/
theorem witness_DeviceChangesAreNotReflectedInTheSession :
    (∃ t, step (start [.foreignFrame [0x47, 1, 2]]) = .next t) ∧ (∃ t, step (start [.powerUp]) = .next t) ∧
    (∃ t, step (start [.latch ⟨true, false, true, false⟩]) = .next t) := ⟨⟨_, rfl⟩, ⟨_, rfl⟩, _, rfl⟩

end Sys2Proof.Tests
end

section
/-! The four enumerations of a channel setting and their code points (10_state.md R18, R20, R21, R22, R27): the reader
`ofCode` is a two-sided inverse of `code`, so each mapping is a bijection. -/

namespace Sys2Proof

theorem Channel.code_bijective : Function.Bijective Channel.code :=
  Function.bijective_iff_has_inverse.2 ⟨Channel.ofCode, Channel.ofCode_code, Channel.code_ofCode⟩

theorem Reference.code_bijective : Function.Bijective Reference.code :=
  Function.bijective_iff_has_inverse.2 ⟨Reference.ofCode, Reference.ofCode_code, Reference.code_ofCode⟩

theorem Gain.code_bijective : Function.Bijective Gain.code :=
  Function.bijective_iff_has_inverse.2 ⟨Gain.ofCode, Gain.ofCode_code, Gain.code_ofCode⟩

theorem PowerDown.code_bijective : Function.Bijective PowerDown.code :=
  Function.bijective_iff_has_inverse.2 ⟨PowerDown.ofCode, PowerDown.ofCode_code, PowerDown.code_ofCode⟩

end Sys2Proof

namespace Sys2Proof.Machine

/-- Settles O1: the code points are the definitions of the four `code` functions, and each of these is bijective. -/
theorem codePointsAreExplicitBijections : Obligations.CodePointsAreExplicitBijections := by
  unfold Obligations.CodePointsAreExplicitBijections
  refine ⟨⟨rfl, rfl, rfl, rfl⟩, ⟨rfl, rfl⟩, ⟨rfl, rfl⟩, ⟨rfl, rfl, rfl, rfl⟩, ?_, ?_, ?_, ?_⟩
  · exact Channel.code_bijective.existsUnique
  · exact Reference.code_bijective.existsUnique
  · exact Gain.code_bijective.existsUnique
  · exact PowerDown.code_bijective.existsUnique

end Sys2Proof.Machine
end

section
/-! The classifier of frames (30_encoding.md R64): its answer in each of the three cases of R64. -/

namespace Sys2Proof

theorem classify_of_mask {b : Byte} (h : b &&& 0xF8 = 0x40) :
    classify b = .sequentialWrite (.ofCode (b.extractLsb' 1 2)) (b.getLsbD 0) :=
  if_pos h

theorem classify_baseEe : classify 0x50 = .eepromCommit := by decide

theorem classify_of_ne {b : Byte} (hmask : b &&& 0xF8 ≠ 0x40) (hb : b ≠ 0x50) : classify b = .notProduced := by
  rw [classify, if_neg hmask, if_neg hb]

end Sys2Proof

namespace Sys2Proof.Machine

/-- Settles O2: each clause is the classifier's answer in its case; the channel has the code it was read from, since
`ofCode` is a right inverse of `code`. -/
theorem classifierKnowsExactlyNineCommandBytes : Obligations.ClassifierKnowsExactlyNineCommandBytes := by
  unfold Obligations.ClassifierKnowsExactlyNineCommandBytes
  intro b
  refine ⟨fun hmask => ?sequentialWrite, fun hb => ?eepromCommit, fun hmask hb => ?notProduced⟩
  case sequentialWrite =>
    rw [classify_of_mask hmask]
    exact ⟨rfl, _, _, rfl, Channel.code_ofCode _, rfl⟩
  case eepromCommit =>
    rw [hb, classify_baseEe]
    exact ⟨rfl, rfl⟩
  case notProduced =>
    rw [classify_of_ne hmask hb]
    exact ⟨rfl, rfl⟩

end Sys2Proof.Machine
end

section
/-! ENCSW (40_encode_sequential_write.md R71, R72, R74, R75): the numbers its bytes are, its dependence on `value` through
the low 12 bits only, and the fields of its command byte. -/

namespace Sys2Proof

/-- High byte first (30_encoding.md R61). -/
theorem highByte_lowByte_toNat (w : SettingsWord) : 256 * (highByte w).toNat + (lowByte w).toNat = w.toNat := by
  rw [highByte_toNat, lowByte_toNat, Nat.div_add_mod]

theorem ofNat12_add_mul (value k : Nat) : BitVec.ofNat 12 (value + 4096 * k) = BitVec.ofNat 12 value :=
  BitVec.eq_of_toNat_eq (by
    rw [BitVec.toNat_ofNat, BitVec.toNat_ofNat]
    exact Nat.add_mul_mod_self_left value 4096 k)

/-! ### The fields of `01000ccu` (30_encoding.md R53) -/

theorem swcmd_channel (c : Channel) (u : Bool) : (swcmd c u).extractLsb' 1 2 = c.code := by
  cases c <;> cases u <;> rfl

theorem swcmd_latch (c : Channel) (u : Bool) : (swcmd c u).getLsbD 0 = u := by
  cases c <;> cases u <;> rfl

theorem swcmd_prefix (c : Channel) (u : Bool) : (swcmd c u).extractLsb' 3 5 = 0b01000 := by
  cases c <;> cases u <;> rfl

end Sys2Proof

namespace Sys2Proof.Machine

theorem swFrame_add_mul (c : Channel) (value k : Nat) (r : Reference) (p : PowerDown) (g : Gain) (u : Bool) :
    swFrame c (value + 4096 * k) r p g u = swFrame c value r p g u := by
  rw [swFrame_eq, swFrame_eq, ofNat12_add_mul]

/-- ENCSW drives the pattern `01000ccu rppgvvvv vvvvvvvv` (30_encoding.md R55). -/
theorem exec_encsw_pattern (c : Channel) (value : Nat) (r : Reference) (p : PowerDown) (g : Gain) (u : Option Bool)
    (s : State) :
    exec (.encsw c value r p g u) s =
      .next (s.putEncsw [swcmd c (udacOrDefault u), highByte (fieldsWord ⟨r, p, g, BitVec.ofNat 12 value⟩),
        lowByte (fieldsWord ⟨r, p, g, BitVec.ofNat 12 value⟩)]) := by
  rw [exec_encsw, swFrame_eq]

/-- Settles O8: ENCSW's frame is the pattern's, whose command byte and word are the numbers of R71. -/
theorem encswDrivesTheFormulasFrame : Obligations.EncswDrivesTheFormulasFrame := by
  unfold Obligations.EncswDrivesTheFormulasFrame
  intro c value r p g u s
  refine ⟨_, _, _, exec_encsw_pattern c value r p g u s, swcmd_toNat c (udacOrDefault u), ?word⟩
  case word =>
    rw [highByte_lowByte_toNat, fieldsWord_toNat, BitVec.toNat_ofNat]
    dsimp only
    omega

/-- Settles O9: only the frame depends on `value`, and it is the same frame. -/
theorem encswMasksTheValue : Obligations.EncswMasksTheValue := by
  unfold Obligations.EncswMasksTheValue
  intro c value k r p g u s
  rw [exec_encsw, exec_encsw, swFrame_add_mul]

/-- Settles O11: byte 0 is `01000ccu` of channel and latch flag alone; bytes 1 and 2 are the word of the other four
fields alone. -/
theorem encswCommandByteLaw : Obligations.EncswCommandByteLaw := by
  unfold Obligations.EncswCommandByteLaw
  intro c v r p g u c' v' r' p' g' u' s
  exact ⟨_, _, _, _, _, _, _, _, _,
    exec_encsw_pattern c v r p g (some u) s, rfl, swcmd_channel c u, swcmd_latch c u, swcmd_prefix c u,
    exec_encsw_pattern c v' r' p' g' (some u) s, rfl,
    exec_encsw_pattern c' v r p g (some u') s, rfl⟩

end Sys2Proof.Machine
end

section
/-! DECW (41_decode_channel_word.md R81, R85): its port after an evaluation, said of the word and of the pattern its bytes
are. -/

namespace Sys2Proof.Machine

/-- DECW drives the fields of the word `{rawHigh, rawLow}` (41 R81). -/
theorem exec_decw_word (hi lo : Byte) (s : State) :
    exec (.decw hi lo) s = .next (s.putDecw (wordFields (wordOfBytes hi lo))) := by
  rw [exec_decw, decodeWord_eq]

/-- On the two bytes of a word's pattern `rppgvvvv vvvvvvvv`, DECW drives the pattern's fields (30_encoding.md R54). -/
theorem exec_decw_fieldsWord (f : Fields) (s : State) :
    exec (.decw (highByte (fieldsWord f)) (lowByte (fieldsWord f))) s = .next (s.putDecw f) := by
  rw [exec_decw_word, wordOfBytes_high_low, wordFields_fieldsWord]

/-- Settles O13: the port takes the fields of the word, each read from its bits by an `ofCode`, of which `code` gives the
bits back. -/
theorem decwReturnsTheFourFields : Obligations.DecwReturnsTheFourFields := by
  unfold Obligations.DecwReturnsTheFourFields
  intro hi lo s
  exact ⟨_, exec_decw_word hi lo s, Reference.code_ofCode _, PowerDown.code_ofCode _, Gain.code_ofCode _, rfl⟩

/-- Settles O15: bytes 1 and 2 of ENCSW's frame are the pattern of its fields, the value cut to 12 bits, and DECW gives
a pattern's fields back. -/
theorem decwInvertsEncsw : Obligations.DecwInvertsEncsw := by
  unfold Obligations.DecwInvertsEncsw
  intro c v r p g u s
  exact ⟨_, _, _, _, _, _, exec_encsw_pattern c v r p g u s, rfl,
    exec_decw_fieldsWord ⟨r, p, g, BitVec.ofNat 12 v⟩ _, rfl, rfl, rfl, rfl, BitVec.toNat_ofNat v 12⟩

end Sys2Proof.Machine
end

section
/-! EXTW on a full read (42_extract_channel_word.md R89 to R91), said of the byte sequence at RB: the port takes the two
bytes at `6 * chan + 1` and `6 * chan + 2`. -/

namespace Sys2Proof.Machine

/-- Both bytes of every channel's word lie in a full read (20_memory.md R42). -/
theorem wordAddress_lt_full (c : Channel) : 6 * c.code.toNat + 2 < 24 := by
  have hc : c.code.toNat < 4 := c.code.isLt
  omega

theorem getElem?_eq_some_byteAt {bytes : List Byte} {a : Nat} (h : a < bytes.length) :
    bytes[a]? = some ((Memory.ofBytes bytes).byteAt a) := by
  rw [← Memory.read_ofBytes, Memory.read_of_lt h]

/-- With a 24-byte sequence at RB, EXTW drives the two bytes at the channel's word address (42 R89). -/
theorem exec_extw_of_bytes {bytes : List Byte} {s : State} (hlen : bytes.length = 24)
    (hrb : s.rb = some (.ofBytes bytes)) (c : Channel) :
    ∃ hi lo : Byte, bytes[6 * c.code.toNat + 1]? = some hi ∧ bytes[6 * c.code.toNat + 2]? = some lo ∧
      exec (.extw c) s = .next (s.putExtw (.ok (hi, lo))) := by
  have hlt : 6 * c.code.toNat + 2 < bytes.length := hlen ▸ wordAddress_lt_full c
  refine ⟨_, _, getElem?_eq_some_byteAt (Nat.lt_of_succ_lt hlt), getElem?_eq_some_byteAt hlt, ?_⟩
  rw [exec_extw_of_driven hrb, extractWord_of_full hlen]

/-- The offsets in the table of 42 R90 are the word addresses of R89. -/
theorem extwTable_eq_wordAddress : ∀ x ∈ [(Channel.A, 1), (.B, 7), (.C, 13), (.D, 19)],
    x.2 = 6 * x.1.code.toNat + 1 := by decide

/-- Settles O19: the table's row for a channel is its word address, where EXTW takes its two bytes. -/
theorem extwSelectsTheChannelsWord : Obligations.ExtwSelectsTheChannelsWord := by
  unfold Obligations.ExtwSelectsTheChannelsWord
  intro bytes s hlen hrb x hx
  rw [extwTable_eq_wordAddress x hx]
  exact exec_extw_of_bytes hlen hrb x.1

/-- Settles O21: each evaluation drives the two bytes of its own buffer's window, and the windows agree. -/
theorem extwDependsOnItsWindowOnly : Obligations.ExtwDependsOnItsWindowOnly := by
  unfold Obligations.ExtwDependsOnItsWindowOnly
  intro bytes bytes' c s s' hlen hlen' hrb hrb' hhigh hlow
  obtain ⟨hi, lo, hhi, hlo, hexec⟩ := exec_extw_of_bytes hlen hrb c
  obtain ⟨hi', lo', hhi', hlo', hexec'⟩ := exec_extw_of_bytes hlen' hrb' c
  have ehi : hi = hi' := Option.some.inj (hhi.symm.trans (hhigh.trans hhi'))
  have elo : lo = lo' := Option.some.inj (hlo.symm.trans (hlow.trans hlo'))
  refine ⟨_, _, hexec, hexec', ?_⟩
  rw [State.putExtw_out, State.putExtw_out, ehi, elo]

end Sys2Proof.Machine
end

section
/-! ENCEE (43_encode_eeprom_commit.md R99): its port after an evaluation, said of the bytes of the four words. -/

namespace Sys2Proof.Machine

/-- ENCEE drives `0x50` and the four words, each high byte first (30_encoding.md R57). -/
theorem exec_encee_pattern (a b c d : SettingsWord) (s : State) :
    exec (.encee a b c d) s = .next (s.putEncee [0x50, highByte a, lowByte a, highByte b, lowByte b,
      highByte c, lowByte c, highByte d, lowByte d]) := by
  rw [exec_encee, eeFrame_eq]

/-- Settles O25: ENCEE's frame is the pattern's, whose bytes are the two halves of each word by definition. -/
theorem enceeDrivesTheNineBytes : Obligations.EnceeDrivesTheNineBytes := by
  unfold Obligations.EnceeDrivesTheNineBytes
  intro a b c d s
  exact ⟨_, exec_encee_pattern a b c d s, rfl⟩

end Sys2Proof.Machine
end

section
/-! The session's failures (60_exceptions.md R112, R115): each procedure run from its call to the step that returns. -/

namespace Sys2Proof.Machine

/-- Settles O45: `open` is the step of its call, the step of the transport's answer and, where that answer gives a handle,
the step of the failed seeding read; none of them touches the cache, and only the handle connects. -/
theorem openConnectsOrReportsConnectionError : Obligations.OpenConnectsOrReportsConnectionError := by
  unfold Obligations.OpenConnectsOrReportsConnectionError
  intro address bus handle s rest hidle hlink
  refine ⟨fun hin => ?absent, fun hin => ?connects⟩
  case absent =>
    refine ⟨_, _, step_openSession hidle hlink hin, step_opening_notFound (State.begin_activity _ _) rfl, ?_⟩
    simp [hlink]
  case connects =>
    refine ⟨_, _, _, step_openSession hidle hlink hin, step_opening_opened (State.begin_activity _ _) rfl,
      step_seeding_failed (State.begin_activity _ _) rfl, ?_⟩
    simp

/-- Settles O48: the failed read ends `saveToEeprom` at once, so it is the only transaction recorded. -/
theorem failedSaveReadWritesNothing : Obligations.FailedSaveReadWritesNothing := by
  unfold Obligations.FailedSaveReadWritesNothing
  intro s rest conn hidle hlink hin
  refine ⟨_, _, step_saveToEeprom hidle hlink hin, step_saveReading_failed (State.begin_activity _ _) rfl, ?_⟩
  simp

end Sys2Proof.Machine
end

section
/-! Power-up (70_reset_and_hazards.md R130): what it and an EEPROM commit leave in the device's two stores. -/

namespace Sys2Proof.Machine

@[simp] theorem powerUp_inputReg (n : Nat) (d : Device) (c : Channel) :
    ((Device.powerUp n d).get c).inputReg = (d.get c).eeprom := by
  rw [Device.powerUp, PerChannel.get_tabulate]

@[simp] theorem powerUp_eeprom (n : Nat) (d : Device) (c : Channel) :
    ((Device.powerUp n d).get c).eeprom = (d.get c).eeprom := by
  rw [Device.powerUp, PerChannel.get_tabulate]

@[simp] theorem eepromCommit_eeprom (words : PerChannel SettingsWord) (n : Nat) (d : Device) (c : Channel) :
    ((Device.eepromCommit words n d).get c).eeprom = words.get c := by
  rw [Device.eepromCommit, PerChannel.get_tabulate]

theorem eq_eeFrame_of_exec_encee {a b c d : SettingsWord} {s e : State} {frame : List Byte}
    (hexec : exec (.encee a b c d) s = .next e) (hport : e.out.encee = some frame) : frame = eeFrame a b c d := by
  rw [exec_encee] at hexec
  cases hexec
  exact (Option.some.inj hport).symm

/-- Settles O59: power-up copies each EEPROM word into its input register, and the words of an EE frame are the EEPROM
words it finds there. -/
theorem powerUpLoadsTheEeprom : Obligations.PowerUpLoadsTheEeprom := by
  unfold Obligations.PowerUpLoadsTheEeprom
  refine ⟨fun s rest hin => ?loads, fun a b c d frame s e rest hexec hport hin => ?commits⟩
  case loads =>
    exact ⟨_, step_powerUp hin, fun c => ⟨powerUp_inputReg _ _ c, powerUp_eeprom _ _ c⟩⟩
  case commits =>
    obtain rfl := eq_eeFrame_of_exec_encee hexec hport
    refine ⟨_, _, step_foreignFrame (receive_eeFrame a b c d) hin, step_powerUp rfl, ?_⟩
    simp only [State.changeDevice_device, powerUp_inputReg, eepromCommit_eeprom]
    exact ⟨rfl, rfl, rfl, rfl⟩

end Sys2Proof.Machine
end

section
/-! `saveToEeprom` (70_reset_and_hazards.md R136, R144): the frame that COMMIT gives for a full read is the one written, and
its words are those read, whatever reaches the device in between. -/

namespace Sys2Proof.Machine

section

variable {s : State} {rest : List Input} {conn : Connection} {bytes frame : List Byte} {m : Memory}

theorem commitFrame_ok_of_full (h : m.len = 24) : ∃ frame, commitFrame m = .ok frame ∧ frame.length = 9 :=
  ⟨_, commitFrame_of_full h, rfl⟩

/-- The device commits to each channel the two bytes at its word address (43 R103, R105). -/
theorem receive_commitFrame (hlen : m.len = 24) (h : commitFrame m = .ok frame) :
    Device.receive frame = some (Device.eepromCommit (.tabulate fun c =>
      wordOfBytes (m.byteAt (6 * c.code.toNat + 1)) (m.byteAt (6 * c.code.toNat + 2)))) := by
  rw [commitFrame_of_full hlen] at h
  cases h
  simp only [Device.receive, classify_baseEe]
  rfl

/-- The device takes every 3-byte frame whose byte 0 is a sequential write's (30_encoding.md R64). -/
theorem receive_of_mask {b0 : Byte} (h : b0 &&& 0xF8 = 0x40) (b1 b2 : Byte) :
    Device.receive [b0, b1, b2] =
      some (Device.sequentialWrite (.ofCode (b0.extractLsb' 1 2)) (b0.getLsbD 0) (wordOfBytes b1 b2)) := by
  simp only [Device.receive, classify_of_mask h]

/-- A write of a frame the device takes changes the device as the frame says. -/
theorem deviceTakes_of_receive {g : Nat → Device → Device} (h : Device.receive frame = some g) :
    s.deviceTakes frame = s.changeDevice g := by
  simp only [State.deviceTakes, h]

/-- After a full read `saveToEeprom` waits for the write of COMMIT's frame (70 R136 steps 2, 3). -/
theorem step_saveReading_commits (hA : s.session.activity = .saveReading conn)
    (hcommit : commitFrame (.ofBytes bytes) = .ok frame) (hin : s.inputs = .answer (.delivered bytes) :: rest) :
    step s = .next ((((({ s with inputs := rest } : State).record (.read conn 24) true).driveBuffer
      (.ofBytes bytes)).putCommit (.ok frame)).begin (.saveWriting conn frame)) := by
  rw [step_saveReading_delivered hA hin, commitRead, hcommit]

/-- A buffer that COMMIT refuses ends `saveToEeprom` (70 R136 step 2; 60_exceptions.md R119). -/
theorem step_saveReading_refused (hA : s.session.activity = .saveReading conn) (hlen : bytes.length ≠ 24)
    (hin : s.inputs = .answer (.delivered bytes) :: rest) :
    step s = .next ((((({ s with inputs := rest } : State).record (.read conn 24) true).driveBuffer
      (.ofBytes bytes)).putCommit (.invalidBufferLength bytes.length)).finish
        (.failed (.invalidBufferLength bytes.length))) := by
  rw [step_saveReading_delivered hA hin, commitRead_of_not_full hlen, Memory.ofBytes_len]

end

/-- Settles O50: the call's step, the step of the read's answer and, where COMMIT gives a frame, the step of the write's
answer; each answer is recorded as it is taken. -/
theorem saveReadsThenWritesTheCommitFrame : Obligations.SaveReadsThenWritesTheCommitFrame := by
  unfold Obligations.SaveReadsThenWritesTheCommitFrame
  intro bytes s rest conn a hidle hlink ha
  refine ⟨fun hin => ?failedRead, fun hlen hin => ?refused, fun hlen hin => ?commits⟩
  case failedRead =>
    refine ⟨_, _, step_saveToEeprom hidle hlink hin, step_saveReading_failed (State.begin_activity _ _) rfl, ?_⟩
    simp
  case refused =>
    refine ⟨_, _, step_saveToEeprom hidle hlink hin, step_saveReading_refused (State.begin_activity _ _) hlen rfl, ?_⟩
    simp
  case commits =>
    obtain ⟨frame, hcommit, hframe⟩ := commitFrame_ok_of_full (m := .ofBytes bytes) hlen
    rcases ha with rfl | rfl
    · refine ⟨_, _, _, _, frame, step_saveToEeprom hidle hlink hin,
        step_saveReading_commits (State.begin_activity _ _) hcommit rfl,
        step_saveWriting_written (State.begin_activity _ _) rfl, exec_commit_of_driven rfl, ?_⟩
      simp [hcommit, hframe]
    · refine ⟨_, _, _, _, frame, step_saveToEeprom hidle hlink hin,
        step_saveReading_commits (State.begin_activity _ _) hcommit rfl,
        step_saveWriting_failed (State.begin_activity _ _) rfl, exec_commit_of_driven rfl, ?_⟩
      simp [hcommit, hframe]

/-- Settles O54: the sequential write leaves the outstanding frame as it is, and that frame sets every EEPROM word. -/
theorem committedWordsAreThoseRead : Obligations.CommittedWordsAreThoseRead := by
  unfold Obligations.CommittedWordsAreThoseRead
  intro bytes b0 b1 b2 conn s rest hlen hb0 hA hin
  obtain ⟨frame, hcommit, -⟩ := commitFrame_ok_of_full (m := .ofBytes bytes) hlen
  refine ⟨_, _, _, step_saveReading_commits hA hcommit hin, step_foreignFrame (receive_of_mask hb0 b1 b2) rfl,
    step_saveWriting_written (State.begin_activity _ _) rfl, rfl, fun c => ?_⟩
  have hlt : 6 * c.code.toNat + 2 < bytes.length := hlen ▸ wordAddress_lt_full c
  refine ⟨_, _, getElem?_eq_some_byteAt (Nat.lt_of_succ_lt hlt), getElem?_eq_some_byteAt hlt, ?_⟩
  rw [deviceTakes_of_receive (receive_commitFrame hlen hcommit), State.finish_device, State.changeDevice_device,
    eepromCommit_eeprom, PerChannel.get_tabulate, wordOfBytes]

end Sys2Proof.Machine
end

section
/-! Decoder and encoder (30_encoding.md R53 to R57): each is the other's inverse, up to what the bytes of ENCSW cannot carry
(a value above 4095 and an absent latch flag), and the operations see no difference there. -/

namespace Sys2Proof

/-- The value read back from 12 bits fits them (10_state.md R23). -/
theorem toNat_value_le (v : BitVec 12) : v.toNat ≤ 4095 := Nat.le_of_lt_succ v.isLt

/-- Decoding an operation's bytes reads off its fields: the command byte tells channel and latch flag, the word the rest. -/
theorem decode_encode (i : Instr) : decode i.op (encode i) = .ok i.canonical := by
  cases i with
  | encsw c v r p g u =>
    simp only [Instr.op, encode, decode, decodeEncsw, classify_swcmd, wordOfBytes_high_low, wordFields_fieldsWord,
      BitVec.toNat_ofNat, Instr.canonical, Nat.reducePow]
  | decw hi lo => rfl
  | extw c => cases c <;> rfl
  | encee a b c d =>
    simp only [Instr.op, encode, decode, decodeEncee, classify_baseEe, wordOfBytes_high_low, Instr.canonical]
  | commit => rfl

theorem canonical_of_wellFormed {i : Instr} (hwf : i.wellFormed = true) (hflag : ∀ c v r p g, i ≠ .encsw c v r p g none) :
    i.canonical = i := by
  cases i with
  | encsw c v r p g u =>
    have hv : v ≤ 4095 := of_decide_eq_true hwf
    cases u with
    | none => exact absurd rfl (hflag c v r p g)
    | some b => rw [Instr.canonical, Nat.mod_eq_of_lt (Nat.lt_succ_of_le hv), udacOrDefault, Option.getD_some]
  | decw hi lo => rfl
  | extw c => rfl
  | encee a b c d => rfl
  | commit => rfl

/-! ### What each unit's decoder accepts -/

theorem wrongLength_ne_ok (want : Nat) (bytes : List Byte) (i : Instr) : wrongLength want bytes ≠ .ok i := by
  unfold wrongLength
  split <;> nofun

theorem decodeEncsw_eq_ok {bytes : List Byte} {i : Instr} (h : decodeEncsw bytes = .ok i) :
    ∃ c u f, bytes = [swcmd c u, highByte (fieldsWord f), lowByte (fieldsWord f)] ∧
      i = .encsw c f.value.toNat f.ref f.pd f.gain (some u) := by
  unfold decodeEncsw at h
  split at h
  · rename_i b0 b1 b2
    split at h
    · rename_i c u hcmd
      cases h
      refine ⟨c, u, wordFields (wordOfBytes b1 b2), ?_, rfl⟩
      rw [swcmd_of_classify hcmd, fieldsWord_wordFields, highByte_wordOfBytes, lowByte_wordOfBytes]
    · cases h
  · exact absurd h (wrongLength_ne_ok _ _ _)

theorem decodeDecw_eq_ok {bytes : List Byte} {i : Instr} (h : decodeDecw bytes = .ok i) :
    ∃ hi lo, bytes = [hi, lo] ∧ i = .decw hi lo := by
  unfold decodeDecw at h
  split at h
  · cases h
    exact ⟨_, _, rfl, rfl⟩
  · exact absurd h (wrongLength_ne_ok _ _ _)

/-- A channel byte is a 2-bit index with six zero bits before it. -/
theorem channelByte_eq {c : Byte} (h : c.toNat < 4) : (0 : BitVec 6) ++ c.extractLsb' 0 2 = c := by
  apply BitVec.eq_of_toNat_eq
  have hzero : (0 : BitVec 6).toNat = 0 := rfl
  rw [append_toNat, BitVec.extractLsb'_toNat, Nat.shiftRight_zero, hzero]
  omega

theorem decodeExtw_eq_ok {bytes : List Byte} {i : Instr} (h : decodeExtw bytes = .ok i) :
    ∃ c, bytes = [(0 : BitVec 6) ++ c.code] ∧ i = .extw c := by
  unfold decodeExtw at h
  split at h
  · split at h
    case isTrue b hb =>
      cases h
      exact ⟨_, by rw [Channel.code_ofCode, channelByte_eq hb], rfl⟩
    case isFalse => cases h
  · exact absurd h (wrongLength_ne_ok _ _ _)

theorem decodeEncee_eq_ok {bytes : List Byte} {i : Instr} (h : decodeEncee bytes = .ok i) :
    ∃ a1 a0 b1 b0 c1 c0 d1 d0, bytes = [0x50, a1, a0, b1, b0, c1, c0, d1, d0] ∧
      i = .encee (wordOfBytes a1 a0) (wordOfBytes b1 b0) (wordOfBytes c1 c0) (wordOfBytes d1 d0) := by
  unfold decodeEncee at h
  split at h
  · split at h
    · rename_i hcmd
      cases h
      exact ⟨_, _, _, _, _, _, _, _, by rw [eq_of_classify_eepromCommit hcmd], rfl⟩
    · cases h
  · exact absurd h (wrongLength_ne_ok _ _ _)

theorem decodeCommit_eq_ok {bytes : List Byte} {i : Instr} (h : decodeCommit bytes = .ok i) :
    bytes = [] ∧ i = .commit := by
  unfold decodeCommit at h
  split at h
  · cases h
    exact ⟨rfl, rfl⟩
  · cases h

/-- What a decoder accepts is the encoding of what it reads, for every unit. -/
theorem encode_of_decode {op : Op} {bytes : List Byte} {i : Instr} (h : decode op bytes = .ok i) :
    i.op = op ∧ encode i = bytes ∧ i.wellFormed = true := by
  cases op with
  | encsw =>
    obtain ⟨c, u, f, rfl, rfl⟩ := decodeEncsw_eq_ok h
    refine ⟨rfl, ?bytes, decide_eq_true (toNat_value_le f.value)⟩
    case bytes => simp only [encode, udacOrDefault, Option.getD_some, BitVec.ofNat_toNat, BitVec.setWidth_eq]
  | decw =>
    obtain ⟨hi, lo, rfl, rfl⟩ := decodeDecw_eq_ok h
    exact ⟨rfl, rfl, rfl⟩
  | extw =>
    obtain ⟨c, rfl, rfl⟩ := decodeExtw_eq_ok h
    exact ⟨rfl, rfl, rfl⟩
  | encee =>
    obtain ⟨a1, a0, b1, b0, c1, c0, d1, d0, rfl, rfl⟩ := decodeEncee_eq_ok h
    refine ⟨rfl, ?_, rfl⟩
    simp only [encode, highByte_wordOfBytes, lowByte_wordOfBytes]
  | commit =>
    obtain ⟨rfl, rfl⟩ := decodeCommit_eq_ok h
    exact ⟨rfl, rfl, rfl⟩

end Sys2Proof

namespace Sys2Proof.Machine

/-- ENCSW masks: its frame is that of the value's low 12 bits (40 R74). -/
theorem swFrame_mod (c : Channel) (value : Nat) (r : Reference) (p : PowerDown) (g : Gain) (u : Bool) :
    swFrame c (value % 4096) r p g u = swFrame c value r p g u :=
  calc swFrame c (value % 4096) r p g u
    _ = swFrame c (value % 4096 + 4096 * (value / 4096)) r p g u := (swFrame_add_mul c _ _ r p g u).symm
    _ = swFrame c value r p g u := by rw [Nat.mod_add_div]

/-- Settles O4: decoding gives the canonical form, and a well-formed operation with its flag given is its own. -/
theorem decodeEncodeRoundTrip : Obligations.DecodeEncodeRoundTrip := by
  unfold Obligations.DecodeEncodeRoundTrip
  refine ⟨decode_encode, fun i hwf hflag => ?_⟩
  rw [decode_encode, canonical_of_wellFormed hwf hflag]

/-- Settles O5, unit by unit, from what each unit's decoder accepts. -/
theorem decodedBytesAreTheEncoding : Obligations.DecodedBytesAreTheEncoding := by
  unfold Obligations.DecodedBytesAreTheEncoding
  intro op bytes i h
  exact encode_of_decode h

/-- Settles O6: the canonical form differs from the operation for ENCSW only, whose frame masks the value and takes an
absent flag for 0. -/
theorem canonicalFormHasTheSameEffect : Obligations.CanonicalFormHasTheSameEffect := by
  unfold Obligations.CanonicalFormHasTheSameEffect
  intro i s
  cases i with
  | encsw c v r p g u => rw [Instr.canonical, exec_encsw, exec_encsw, swFrame_mod, udacOrDefault, Option.getD_some]
  | decw hi lo => rfl
  | extw c => rfl
  | encee a b c d => rfl
  | commit => rfl

/-- Settles O7: both frames are the patterns that the encoder writes. -/
theorem encodersEmitTheTableEncoding : Obligations.EncodersEmitTheTableEncoding := by
  unfold Obligations.EncodersEmitTheTableEncoding
  refine ⟨fun c v r p g u s => ?encsw, fun a b c d s => ?encee⟩
  case encsw => exact ⟨_, exec_encsw_pattern c v r p g u s, rfl⟩
  case encee => exact ⟨_, exec_encee_pattern a b c d s, rfl⟩

/-- Settles O3: the encoder writes these words for these operations, so the decoder reads them back; the two other command
bytes are none of the nine that the classifier knows. -/
theorem specWordsDecode : Obligations.SpecWordsDecode := by
  unfold Obligations.SpecWordsDecode
  refine ⟨?encsw, ?decw, ?encee, ?extw, ?commit, ?refused48, ?refused51⟩
  case encsw => exact decode_encode (.encsw .C 0xABC .vdd .groundViaDiv100k .x1 (some true))
  case decw => exact decode_encode (.decw 0x91 0x23)
  case encee => exact decode_encode (.encee 0x0800 0x9123 0x4ABC 0xFFFF)
  case extw => exact decode_encode (.extw .D)
  case commit => exact decode_encode .commit
  case refused48 => simp only [decode, decodeEncsw, classify_of_ne (b := 0b01001000) (by decide) (by decide)]
  case refused51 => simp only [decode, decodeEncee, classify_of_ne (b := 0b01010001) (by decide) (by decide)]

end Sys2Proof.Machine
end

section
/-! What a step does to the session, field by field (70_reset_and_hazards.md R133 to R139): its link, its cache and its
trace. Only a call or an answer of the transport touches it. -/

namespace Sys2Proof.Machine

section

variable {s t : State}

/-- The session changes by a call or an answer only. -/
theorem takeInput_session {x : Input} (h : takeInput x s = .next t) :
    ((∀ a, x ≠ .answer a) ∧ t.session = s.session) ∨ (∃ c, x = .call c ∧ startCall c s = .next t) ∨
      (∃ a, x = .answer a ∧ takeAnswer a s = .next t) := by
  rcases takeInput_cases h with ⟨i, hx, he⟩ | ⟨bytes, rfl, rfl⟩ | ⟨op, position, rfl, rfl⟩ | ⟨op, rfl, hp⟩ | hcall |
    hanswer | ⟨channels, rfl, rfl⟩ | ⟨rfl, rfl⟩ | ⟨frame, g, rfl, -, rfl⟩
  · obtain ⟨o, rfl⟩ := exec_next_eq he
    refine .inl ⟨?_, rfl⟩
    rcases hx with rfl | ⟨op, bytes, rfl, -⟩ <;> nofun
  · exact .inl ⟨nofun, rfl⟩
  · exact .inl ⟨nofun, rfl⟩
  · obtain ⟨frame, y, -, rfl⟩ := presentFrame_cases hp
    exact .inl ⟨nofun, rfl⟩
  · exact .inr (.inl hcall)
  · exact .inr (.inr hanswer)
  · exact .inl ⟨nofun, rfl⟩
  · exact .inl ⟨nofun, rfl⟩
  · exact .inl ⟨nofun, rfl⟩

/-- A call leaves link, cache, trace, RB and the device. -/
theorem startCall_frame {c : Call} (h : startCall c s = .next t) :
    t.session.link = s.session.link ∧ t.session.cache = s.session.cache ∧ t.session.trace = s.session.trace ∧
      t.rb = s.rb ∧ t.device = s.device := by
  obtain ⟨-, ⟨address, bus, -, hc⟩ | ⟨chan, x, -, hc⟩ | ⟨-, hc⟩⟩ := startCall_cases h
  · obtain ⟨-, rfl⟩ := startOpen_cases hc
    exact ⟨rfl, rfl, rfl, rfl, rfl⟩
  · obtain ⟨conn, -, rfl⟩ := startSetChannel_cases hc
    exact ⟨rfl, rfl, rfl, rfl, rfl⟩
  · obtain ⟨conn, -, rfl⟩ := startSave_cases hc
    exact ⟨rfl, rfl, rfl, rfl, rfl⟩

@[simp] theorem commitRead_link (conn : Connection) (m : Memory) :
    (commitRead conn m s).session.link = s.session.link := by
  unfold commitRead
  split <;> rfl

@[simp] theorem commitRead_cache (conn : Connection) (m : Memory) :
    (commitRead conn m s).session.cache = s.session.cache := by
  unfold commitRead
  split <;> rfl

@[simp] theorem commitRead_trace (conn : Connection) (m : Memory) :
    (commitRead conn m s).session.trace = s.session.trace := by
  unfold commitRead
  split <;> rfl

theorem delivery_succeeded {a : Answer} {bytes : List Byte} {s' : State} (h : s.delivery a = some (bytes, s')) :
    a.succeeded = true ∧ a ≠ .transportError := by
  rcases delivery_cases h with ⟨rfl, -⟩ | ⟨rfl, -, -⟩ <;> exact ⟨rfl, nofun⟩

/-- An answer finishes the outstanding transaction, with the success it reports (20_memory.md R45). -/
theorem takeAnswer_trace {a : Answer} (h : takeAnswer a s = .next t) :
    ∃ x, s.session.activity.outstanding = some x ∧ t.session.trace = s.session.trace ++ [⟨x, a.succeeded⟩] := by
  rcases takeAnswer_cases h with ⟨address, bus, hA, ha⟩ | ⟨conn, hA, ha⟩ | ⟨conn, c, x, frame, hA, ha⟩ | ⟨conn, hA, ha⟩ |
    ⟨conn, frame, hA, ha⟩ <;> rw [hA] <;> refine ⟨_, rfl, ?_⟩
  · rcases answerOpening_cases ha with ⟨handle, rfl, rfl⟩ | ⟨rfl, rfl⟩ <;> rfl
  · rcases answerSeeding_cases ha with ⟨bytes, s', hd, rfl⟩ | ⟨rfl, rfl⟩
    · simp only [State.finish_trace, seedCache_frame, State.driveBuffer_session, State.record_trace, delivery_frame hd,
        delivery_succeeded hd]
    · rfl
  · rcases answerSettingChannel_cases ha with ⟨rfl, rfl⟩ | ⟨rfl, rfl⟩
    · simp only [State.finish_trace, State.cacheEntry_trace, deviceTakes_session, State.record_trace, Answer.succeeded]
    · rfl
  · rcases answerSaveReading_cases ha with ⟨bytes, s', hd, rfl⟩ | ⟨rfl, rfl⟩
    · simp only [commitRead_trace, State.driveBuffer_session, State.record_trace, delivery_frame hd, delivery_succeeded hd]
    · rfl
  · rcases answerSaveWriting_cases ha with ⟨rfl, rfl⟩ | ⟨rfl, rfl⟩
    · simp only [State.finish_trace, deviceTakes_session, State.record_trace, Answer.succeeded]
    · rfl

/-- The link changes by the success of `open`'s transaction only (70 R133). -/
theorem takeAnswer_link {a : Answer} (h : takeAnswer a s = .next t) :
    t.session.link = s.session.link ∨ ∃ address bus handle, s.session.activity = .opening address bus ∧
      a = .opened handle ∧ t.session.link = .connected ⟨bus, handle⟩ := by
  rcases takeAnswer_cases h with ⟨address, bus, hA, ha⟩ | ⟨conn, hA, ha⟩ | ⟨conn, c, x, frame, hA, ha⟩ | ⟨conn, hA, ha⟩ |
    ⟨conn, frame, hA, ha⟩
  · rcases answerOpening_cases ha with ⟨handle, rfl, rfl⟩ | ⟨-, rfl⟩
    · exact .inr ⟨address, bus, handle, hA, rfl, rfl⟩
    · exact .inl rfl
  · rcases answerSeeding_cases ha with ⟨bytes, s', hd, rfl⟩ | ⟨-, rfl⟩
    · left
      simp only [State.finish_link, seedCache_frame, State.driveBuffer_session, State.record_link, delivery_frame hd]
    · exact .inl rfl
  · rcases answerSettingChannel_cases ha with ⟨-, rfl⟩ | ⟨-, rfl⟩
    · left
      simp only [State.finish_link, State.cacheEntry_link, deviceTakes_session, State.record_link]
    · exact .inl rfl
  · rcases answerSaveReading_cases ha with ⟨bytes, s', hd, rfl⟩ | ⟨-, rfl⟩
    · left
      simp only [commitRead_link, State.driveBuffer_session, State.record_link, delivery_frame hd]
    · exact .inl rfl
  · rcases answerSaveWriting_cases ha with ⟨-, rfl⟩ | ⟨-, rfl⟩
    · left
      simp only [State.finish_link, deviceTakes_session, State.record_link]
    · exact .inl rfl

/-- The cache changes by the success of a `setChannel` write, at its channel, or by a delivered seeding read (70 R139). -/
theorem takeAnswer_cache {a : Answer} (h : takeAnswer a s = .next t) :
    t.session.cache = s.session.cache ∨
    (∃ conn c x frame, s.session.activity = .settingChannel conn c x frame ∧ a = .written ∧
      t.session.cache = s.session.cache.set c (some ⟨x.value, x.ref, x.pd, x.gain⟩)) ∨
    (∃ conn, s.session.activity = .seeding conn ∧ a ≠ .transportError) := by
  rcases takeAnswer_cases h with ⟨address, bus, hA, ha⟩ | ⟨conn, hA, ha⟩ | ⟨conn, c, x, frame, hA, ha⟩ | ⟨conn, hA, ha⟩ |
    ⟨conn, frame, hA, ha⟩
  · rcases answerOpening_cases ha with ⟨handle, -, rfl⟩ | ⟨-, rfl⟩ <;> exact .inl rfl
  · rcases answerSeeding_cases ha with ⟨bytes, s', hd, -⟩ | ⟨-, rfl⟩
    · exact .inr (.inr ⟨conn, hA, (delivery_succeeded hd).2⟩)
    · exact .inl rfl
  · rcases answerSettingChannel_cases ha with ⟨rfl, rfl⟩ | ⟨-, rfl⟩
    · refine .inr (.inl ⟨conn, c, x, frame, hA, rfl, ?_⟩)
      simp only [State.finish_cache, State.cacheEntry_cache, deviceTakes_session, State.record_cache]
    · exact .inl rfl
  · rcases answerSaveReading_cases ha with ⟨bytes, s', hd, rfl⟩ | ⟨-, rfl⟩
    · left
      simp only [commitRead_cache, State.driveBuffer_session, State.record_cache, delivery_frame hd]
    · exact .inl rfl
  · rcases answerSaveWriting_cases ha with ⟨-, rfl⟩ | ⟨-, rfl⟩
    · left
      simp only [State.finish_cache, deviceTakes_session, State.record_cache]
    · exact .inl rfl

end

/-- Settles O42: no call and no other input touches the link, and an answer only makes a connection. -/
theorem onlyOpenConnectsAndNothingDisconnects : Obligations.OnlyOpenConnectsAndNothingDisconnects := by
  unfold Obligations.OnlyOpenConnectsAndNothingDisconnects
  intro s t h
  obtain ⟨x, rest, hin, hx⟩ := step_cases h
  have hlink : t.session.link = s.session.link ∨ ∃ address bus handle, s.session.activity = .opening address bus ∧
      x = .answer (.opened handle) ∧ t.session.link = .connected ⟨bus, handle⟩ := by
    rcases takeInput_session hx with ⟨-, hs⟩ | ⟨c, -, hc⟩ | ⟨a, rfl, ha⟩
    · exact .inl (congrArg Session.link hs)
    · obtain ⟨hl, -⟩ := startCall_frame hc
      exact .inl hl
    · rcases takeAnswer_link ha with hl | ⟨address, bus, handle, hA, rfl, hl⟩
      · exact .inl hl
      · exact .inr ⟨address, bus, handle, hA, rfl, hl⟩
  rcases hlink with hl | ⟨address, bus, handle, hA, rfl, hl⟩
  · exact ⟨fun hs => hl ▸ hs, fun hs ht => absurd (hl.trans hs) ht⟩
  · exact ⟨fun _ => hl ▸ nofun, fun _ _ => ⟨address, bus, handle, rest, hA, hin, hl⟩⟩

/-- Settles O43: no call and no other input touches the cache; an answer does in two cases. -/
theorem cacheChangesOnlyOnSuccess : Obligations.CacheChangesOnlyOnSuccess := by
  unfold Obligations.CacheChangesOnlyOnSuccess
  intro s t h hne
  obtain ⟨x, rest, hin, hx⟩ := step_cases h
  rcases takeInput_session hx with ⟨-, hs⟩ | ⟨c, -, hc⟩ | ⟨a, rfl, ha⟩
  · exact absurd (congrArg Session.cache hs) hne
  · obtain ⟨-, hcache, -, -, -⟩ := startCall_frame hc
    exact absurd hcache hne
  · rcases takeAnswer_cache ha with hcache | ⟨conn, c, x, frame, hA, rfl, hcache⟩ | ⟨conn, hA, hne'⟩
    · exact absurd hcache hne
    · refine .inl ⟨conn, c, x, frame, rest, hA, hin, ?_, fun d hd => ?_⟩
      · rw [hcache, PerChannel.get_set_self]
      · rw [hcache, PerChannel.get_set_of_ne _ _ hd]
    · exact .inr ⟨conn, a, rest, hA, hin, hne'⟩

/-- Settles O44: an answer records the outstanding transaction; a call and any other input record nothing. -/
theorem transactionsFinishOneAtATime : Obligations.TransactionsFinishOneAtATime := by
  unfold Obligations.TransactionsFinishOneAtATime
  intro s t h
  obtain ⟨x, rest, hin, hx⟩ := step_cases h
  rw [hin]
  rcases takeInput_session hx with ⟨hna, hs⟩ | ⟨c, rfl, hc⟩ | ⟨a, rfl, ha⟩
  · refine ⟨fun _ => congrArg Session.trace hs, fun a rest' he => ?_⟩
    exact absurd (List.cons.inj he).1 (hna a)
  · obtain ⟨-, -, htrace, -, -⟩ := startCall_frame hc
    exact ⟨fun _ => htrace, nofun⟩
  · refine ⟨fun hna => absurd rfl (hna a rest), fun a' rest' he => ?_⟩
    cases he
    exact takeAnswer_trace (s := { s with inputs := rest }) ha

end Sys2Proof.Machine
end

section
/-! The machine's invariant, in two parts: what the block's ports hold (20_memory.md R31; 30_encoding.md R52, R65) and what
the session has done and waits for (70_reset_and_hazards.md R133 to R141; 60_exceptions.md R115). -/

namespace Sys2Proof.Machine

/-- The session's part of the invariant. -/
structure Session.Ok (x : Session) : Prop where
  bus      : ∀ e ∈ x.trace, e.transaction.allowed = true
  owned    : ∀ e ∈ x.trace, e.transaction.ownedBy x.link
  guarded  : commitsGuarded false x.trace = true
  activity : x.activityOk
  cached   : x.link = .disconnected → x.cache = ⟨none, none, none, none⟩

section

variable {s t : State} {x : Session} {tr : Transaction}

theorem State.inv_iff : s.Inv ↔
    (∀ m, s.rb = some m → m.wf) ∧ s.out.framed ∧ s.presentedOk ∧ s.session.Ok :=
  ⟨fun h => ⟨h.buffer, h.framed, h.presented, h.bus, h.owned, h.guarded, h.activity, h.cached⟩,
    fun ⟨hbuffer, hframed, hpresented, hbus, howned, hguarded, hactivity, hcached⟩ =>
      ⟨hbuffer, hframed, hpresented, hbus, howned, hguarded, hactivity, hcached⟩⟩

/-! ### The outstanding transaction -/

/-- What a session may wait for (70 R134 to R137). -/
theorem Session.activityOk.outstanding_cases (h : x.activityOk) (ho : x.activity.outstanding = some tr) :
    (∃ bus address, tr = .openBus bus address) ∨ ∃ conn, x.link = .connected conn ∧ (tr = .read conn 24 ∨
      ∃ frame, tr = .write conn frame ∧
        (isSwFrame frame = true ∨ isEeFrame frame = true ∧ endsInGoodRead x.trace = true)) := by
  unfold Session.activityOk at h
  split at h <;> rename_i hA <;> rw [hA] at ho <;> cases ho
  · exact .inl ⟨_, _, rfl⟩
  · exact .inr ⟨_, h, .inl rfl⟩
  · exact .inr ⟨_, h.1, .inr ⟨_, rfl, .inl h.2⟩⟩
  · exact .inr ⟨_, h, .inl rfl⟩
  · exact .inr ⟨_, h.1, .inr ⟨_, rfl, .inr h.2⟩⟩

theorem Session.activityOk.outstanding_allowed (h : x.activityOk) (ho : x.activity.outstanding = some tr) :
    tr.allowed = true := by
  rcases h.outstanding_cases ho with ⟨bus, address, rfl⟩ | ⟨conn, -, rfl | ⟨frame, rfl, hsw | ⟨hee, -⟩⟩⟩
  · rfl
  · rfl
  · simp only [Transaction.allowed, hsw, Bool.true_or]
  · simp only [Transaction.allowed, hee, Bool.or_true]

theorem Session.activityOk.outstanding_ownedBy (h : x.activityOk) (ho : x.activity.outstanding = some tr) :
    tr.ownedBy x.link := by
  rcases h.outstanding_cases ho with ⟨bus, address, rfl⟩ | ⟨conn, hlink, rfl | ⟨frame, rfl, -⟩⟩
  · trivial
  · exact hlink
  · exact hlink

theorem Session.activityOk.outstanding_guarded (h : x.activityOk) (ho : x.activity.outstanding = some tr) (ok : Bool) :
    commitsGuarded (endsInGoodRead x.trace) [⟨tr, ok⟩] = true := by
  rcases h.outstanding_cases ho with ⟨bus, address, rfl⟩ | ⟨conn, -, rfl | ⟨frame, rfl, hsw | ⟨-, hread⟩⟩⟩
  · rfl
  · rfl
  · simp only [commitsGuarded, not_isEeFrame_of_isSwFrame hsw, Bool.not_false, Bool.true_or, Bool.and_self]
  · simp only [commitsGuarded, hread, Bool.or_true, Bool.and_self]

/-! ### The trace, one transaction longer -/

/-- The entry added stands behind the last one. -/
theorem commitsGuarded_append_singleton (good : Bool) (trace : List TraceEntry) (e : TraceEntry) :
    commitsGuarded good (trace ++ [e]) =
      (commitsGuarded good trace && commitsGuarded ((trace.getLast?.map isGoodRead).getD good) [e]) := by
  induction trace generalizing good with
  | nil => rfl
  | cons d rest ih =>
    have hlast : ((d :: rest).getLast?.map isGoodRead).getD good = (rest.getLast?.map isGoodRead).getD (isGoodRead d) := by
      rw [List.getLast?_cons, Option.map_some, Option.getD_some, Option.getD_map]
    rw [List.cons_append, commitsGuarded, ih, hlast, ← Bool.and_assoc]
    rfl

/-- Before a connection only `open`'s transactions can have been. -/
theorem Transaction.ownedBy_of_disconnected (h : tr.ownedBy .disconnected) (link : Link) : tr.ownedBy link := by
  cases tr with
  | openBus bus address => trivial
  | read conn n => cases h
  | write conn frame => cases h

/-! ### A call and an answer keep the session's part -/

theorem startCall_activityOk {c : Call} (h : startCall c s = .next t) : t.session.activityOk := by
  obtain ⟨-, ⟨address, bus, -, hc⟩ | ⟨chan, x, -, hc⟩ | ⟨-, hc⟩⟩ := startCall_cases h
  · obtain ⟨hlink, rfl⟩ := startOpen_cases hc
    exact hlink
  · obtain ⟨conn, hlink, rfl⟩ := startSetChannel_cases hc
    exact ⟨hlink, isSwFrame_settingFrame chan x⟩
  · obtain ⟨conn, hlink, rfl⟩ := startSave_cases hc
    exact hlink

theorem startCall_ok {c : Call} (hs : s.session.Ok) (h : startCall c s = .next t) : t.session.Ok := by
  obtain ⟨hlink, hcache, htrace, -, -⟩ := startCall_frame h
  refine ⟨?_, ?_, ?_, startCall_activityOk h, ?_⟩
  · rw [htrace]; exact hs.bus
  · rw [htrace, hlink]; exact hs.owned
  · rw [htrace]; exact hs.guarded
  · rw [hlink, hcache]; exact hs.cached

theorem activityOk_of_idle (h : x.activity = .idle) : x.activityOk := by
  simp only [Session.activityOk, h]

theorem endsInGoodRead_append_read (trace : List TraceEntry) (conn : Connection) :
    endsInGoodRead (trace ++ [⟨.read conn 24, true⟩]) = true := by
  rw [endsInGoodRead, List.getLast?_concat]
  rfl

/-- `saveToEeprom` waits for a commit write only behind the read it has recorded (60_exceptions.md R115). -/
theorem commitRead_activityOk {conn : Connection} (m : Memory) (hlink : s.session.link = .connected conn)
    (hread : endsInGoodRead s.session.trace = true) : (commitRead conn m s).session.activityOk := by
  unfold commitRead
  split
  · exact ⟨hlink, isEeFrame_of_commitFrame ‹_›, hread⟩
  · exact activityOk_of_idle rfl

/-- A procedure ends with its answer, or goes on: `open` to its seeding read, `saveToEeprom` to its write. -/
theorem takeAnswer_activityOk {a : Answer} (hs : s.session.activityOk) (h : takeAnswer a s = .next t) :
    t.session.activityOk := by
  rcases takeAnswer_cases h with ⟨address, bus, -, ha⟩ | ⟨conn, -, ha⟩ | ⟨conn, c, x, frame, -, ha⟩ | ⟨conn, hA, ha⟩ |
    ⟨conn, frame, -, ha⟩
  · rcases answerOpening_cases ha with ⟨handle, -, rfl⟩ | ⟨-, rfl⟩
    · exact State.connect_link (s.record (.openBus bus address) true) ⟨bus, handle⟩
    · exact activityOk_of_idle rfl
  · rcases answerSeeding_cases ha with ⟨bytes, s', -, rfl⟩ | ⟨-, rfl⟩ <;> exact activityOk_of_idle rfl
  · rcases answerSettingChannel_cases ha with ⟨-, rfl⟩ | ⟨-, rfl⟩ <;> exact activityOk_of_idle rfl
  · rcases answerSaveReading_cases ha with ⟨bytes, s', hd, rfl⟩ | ⟨-, rfl⟩
    · obtain ⟨-, -, -, hsession, -, -⟩ := delivery_frame hd
      have hlink : s'.session.link = .connected conn := by
        rw [hsession]
        simpa only [Session.activityOk, hA] using hs
      exact commitRead_activityOk _ hlink (endsInGoodRead_append_read s'.session.trace conn)
    · exact activityOk_of_idle rfl
  · rcases answerSaveWriting_cases ha with ⟨-, rfl⟩ | ⟨-, rfl⟩ <;> exact activityOk_of_idle rfl

/-- The link stands, or `open` has connected a session that was `Disconnected`. -/
theorem takeAnswer_link_ok {a : Answer} (hs : s.session.activityOk) (h : takeAnswer a s = .next t) :
    t.session.link = s.session.link ∨ s.session.link = .disconnected ∧ t.session.link ≠ .disconnected := by
  rcases takeAnswer_link h with hlink | ⟨address, bus, handle, hA, -, hlink⟩
  · exact .inl hlink
  · have hdis : s.session.link = .disconnected := by simpa only [Session.activityOk, hA] using hs
    exact .inr ⟨hdis, hlink ▸ nofun⟩

/-- The cache of a session that is `Disconnected` is not touched. -/
theorem takeAnswer_cache_of_disconnected {a : Answer} (hs : s.session.activityOk) (h : takeAnswer a s = .next t)
    (hlink : s.session.link = .disconnected) : t.session.cache = s.session.cache := by
  rcases takeAnswer_cache h with hcache | ⟨conn, c, x, frame, hA, -, -⟩ | ⟨conn, hA, -⟩
  · exact hcache
  all_goals
    simp only [Session.activityOk, hA, hlink, reduceCtorEq, false_and] at hs

theorem takeAnswer_ok {a : Answer} (hs : s.session.Ok) (h : takeAnswer a s = .next t) : t.session.Ok := by
  obtain ⟨tr, hout, htrace⟩ := takeAnswer_trace h
  have hlink := takeAnswer_link_ok hs.activity h
  have howned : ∀ y : Transaction, y.ownedBy s.session.link → y.ownedBy t.session.link := by
    intro y hy
    rcases hlink with hlink | ⟨hdis, -⟩
    · rwa [hlink]
    · exact Transaction.ownedBy_of_disconnected (hdis ▸ hy) _
  refine ⟨?bus, ?owned, ?guarded, takeAnswer_activityOk hs.activity h, ?cached⟩
  case bus =>
    rw [htrace, List.forall_mem_append]
    exact ⟨hs.bus, List.forall_mem_singleton.2 (hs.activity.outstanding_allowed hout)⟩
  case owned =>
    rw [htrace, List.forall_mem_append]
    exact ⟨fun e he => howned _ (hs.owned e he),
      List.forall_mem_singleton.2 (howned _ (hs.activity.outstanding_ownedBy hout))⟩
  case guarded =>
    rw [htrace, commitsGuarded_append_singleton, Bool.and_eq_true]
    exact ⟨hs.guarded, hs.activity.outstanding_guarded hout _⟩
  case cached =>
    intro hdis
    rcases hlink with hlink | ⟨-, hne⟩
    · have hdis' : s.session.link = .disconnected := hlink.symm.trans hdis
      rw [takeAnswer_cache_of_disconnected hs.activity h hdis', hs.cached hdis']
    · exact absurd hdis hne

theorem takeInput_session_ok {y : Input} (hs : s.session.Ok) (h : takeInput y s = .next t) : t.session.Ok := by
  rcases takeInput_session h with ⟨-, hsession⟩ | ⟨c, -, hc⟩ | ⟨a, -, ha⟩
  · rwa [hsession]
  · exact startCall_ok hs hc
  · exact takeAnswer_ok hs ha

/-! ### The block's ports -/

/-- Ports that put out frames hold the same frames: only those of ENCSW, ENCEE and COMMIT do. -/
theorem Outputs.framed.congr {o o' : Outputs} (h : o.framed) (hencsw : o'.encsw = o.encsw) (hencee : o'.encee = o.encee)
    (hcommit : o'.commit = o.commit) : o'.framed :=
  ⟨fun f hf => h.encsw f (hencsw ▸ hf), fun f hf => h.encee f (hencee ▸ hf), fun f hf => h.commit f (hcommit ▸ hf)⟩

theorem State.putEncsw_framed {frame : List Byte} (h : s.out.framed) (hf : isSwFrame frame = true) :
    (s.putEncsw frame).out.framed :=
  ⟨fun _ he => Option.some.inj he ▸ hf, h.encee, h.commit⟩

theorem State.putEncee_framed {frame : List Byte} (h : s.out.framed) (hf : isEeFrame frame = true) :
    (s.putEncee frame).out.framed :=
  ⟨h.encsw, fun _ he => Option.some.inj he ▸ hf, h.commit⟩

theorem State.putCommit_framed (h : s.out.framed) (m : Memory) : (s.putCommit (commitFrame m)).out.framed :=
  ⟨h.encsw, h.encee, fun _ he => isEeFrame_of_commitFrame (Option.some.inj he)⟩

theorem State.driveBuffer_framed (h : s.out.framed) (m : Memory) : (s.driveBuffer m).out.framed :=
  ⟨h.encsw, h.encee, nofun⟩

theorem exec_framed {i : Instr} (hs : s.out.framed) (h : exec i s = .next t) : t.out.framed := by
  rcases exec_cases h with ⟨c, v, r, p, g, u, -, rfl⟩ | ⟨hi, lo, -, rfl⟩ | ⟨c, m, -, -, rfl⟩ | ⟨a, b, c, d, -, rfl⟩ |
    ⟨m, -, -, rfl⟩
  · exact State.putEncsw_framed hs (isSwFrame_swFrame ..)
  · exact hs.congr rfl rfl rfl
  · exact hs.congr rfl rfl rfl
  · exact State.putEncee_framed hs (isEeFrame_eeFrame ..)
  · exact State.putCommit_framed hs m

theorem startCall_framed {c : Call} (hs : s.out.framed) (h : startCall c s = .next t) : t.out.framed := by
  obtain ⟨-, ⟨address, bus, -, hc⟩ | ⟨chan, x, -, hc⟩ | ⟨-, hc⟩⟩ := startCall_cases h
  · obtain ⟨-, rfl⟩ := startOpen_cases hc
    exact hs
  · obtain ⟨conn, -, rfl⟩ := startSetChannel_cases hc
    exact State.putEncsw_framed hs (isSwFrame_settingFrame chan x)
  · obtain ⟨conn, -, rfl⟩ := startSave_cases hc
    exact hs

/-- COMMIT's port takes what `commitFrame` gives, whether `saveToEeprom` goes on or stops. -/
theorem commitRead_out (conn : Connection) (m : Memory) :
    (commitRead conn m s).out = (s.putCommit (commitFrame m)).out := by
  unfold commitRead
  split <;> rename_i hm <;> rw [hm] <;> rfl

/-- `open` and `saveToEeprom` evaluate operations of the block on what they read; no other answer touches the ports. -/
theorem takeAnswer_framed {a : Answer} (hs : s.out.framed) (h : takeAnswer a s = .next t) : t.out.framed := by
  rcases takeAnswer_cases h with ⟨address, bus, -, ha⟩ | ⟨conn, -, ha⟩ | ⟨conn, c, x, frame, -, ha⟩ | ⟨conn, -, ha⟩ |
    ⟨conn, frame, -, ha⟩
  · rcases answerOpening_cases ha with ⟨handle, -, rfl⟩ | ⟨-, rfl⟩ <;> exact hs
  · rcases answerSeeding_cases ha with ⟨bytes, s', hd, rfl⟩ | ⟨-, rfl⟩
    · obtain ⟨-, -, hout, -, -, -⟩ := delivery_frame hd
      have hs' : s'.out.framed := hout ▸ hs
      have hdriven := State.driveBuffer_framed (s := s'.record (.read conn 24) true) hs' (.ofBytes bytes)
      obtain ⟨-, -, -, -, -, -, -, -, hencsw, hencee, hcommit, -, -⟩ := seedCache_frame
        (s := (s'.record (.read conn 24) true).driveBuffer (.ofBytes bytes)) (.ofBytes bytes)
      exact hdriven.congr hencsw hencee hcommit
    · exact hs
  · rcases answerSettingChannel_cases ha with ⟨-, rfl⟩ | ⟨-, rfl⟩
    · rwa [State.finish_out, State.cacheEntry_out, deviceTakes_out]
    · exact hs
  · rcases answerSaveReading_cases ha with ⟨bytes, s', hd, rfl⟩ | ⟨-, rfl⟩
    · obtain ⟨-, -, hout, -, -, -⟩ := delivery_frame hd
      have hs' : s'.out.framed := hout ▸ hs
      rw [commitRead_out]
      exact State.putCommit_framed (State.driveBuffer_framed (s := s'.record (.read conn 24) true) hs' _) _
    · exact hs
  · rcases answerSaveWriting_cases ha with ⟨-, rfl⟩ | ⟨-, rfl⟩
    · rwa [State.finish_out, deviceTakes_out]
    · exact hs

theorem takeInput_framed {y : Input} (hs : s.out.framed) (h : takeInput y s = .next t) : t.out.framed := by
  rcases takeInput_cases h with ⟨i, -, he⟩ | ⟨bytes, -, rfl⟩ | ⟨op, position, -, rfl⟩ | ⟨op, -, hp⟩ | ⟨c, -, hc⟩ |
    ⟨a, -, ha⟩ | ⟨channels, -, rfl⟩ | ⟨-, rfl⟩ | ⟨frame, g, -, -, rfl⟩
  · exact exec_framed hs he
  · exact State.driveBuffer_framed hs _
  · exact hs
  · obtain ⟨frame, z, -, rfl⟩ := presentFrame_cases hp
    exact hs
  · exact startCall_framed hs hc
  · exact takeAnswer_framed hs ha
  · exact hs
  · exact hs
  · exact hs

/-! ### The read buffer and the record of the last presentation -/

@[simp] theorem commitRead_rb (conn : Connection) (m : Memory) : (commitRead conn m s).rb = s.rb := by
  unfold commitRead
  split <;> rfl

/-- RB is driven by an answer that delivers, or stands. -/
theorem takeAnswer_rb {a : Answer} (h : takeAnswer a s = .next t) :
    t.rb = s.rb ∨ ∃ bytes, t.rb = some (.ofBytes bytes) := by
  rcases takeAnswer_cases h with ⟨address, bus, -, ha⟩ | ⟨conn, -, ha⟩ | ⟨conn, c, x, frame, -, ha⟩ | ⟨conn, -, ha⟩ |
    ⟨conn, frame, -, ha⟩
  · rcases answerOpening_cases ha with ⟨handle, -, rfl⟩ | ⟨-, rfl⟩ <;> exact .inl rfl
  · rcases answerSeeding_cases ha with ⟨bytes, s', -, rfl⟩ | ⟨-, rfl⟩
    · exact .inr ⟨bytes, by simp only [State.finish_rb, seedCache_frame, State.driveBuffer_rb]⟩
    · exact .inl rfl
  · rcases answerSettingChannel_cases ha with ⟨-, rfl⟩ | ⟨-, rfl⟩
    · exact .inl (by simp only [State.finish_rb, State.cacheEntry_rb, deviceTakes_rb, State.record_rb])
    · exact .inl rfl
  · rcases answerSaveReading_cases ha with ⟨bytes, s', -, rfl⟩ | ⟨-, rfl⟩
    · exact .inr ⟨bytes, by simp only [commitRead_rb, State.driveBuffer_rb]⟩
    · exact .inl rfl
  · rcases answerSaveWriting_cases ha with ⟨-, rfl⟩ | ⟨-, rfl⟩
    · exact .inl (by simp only [State.finish_rb, deviceTakes_rb, State.record_rb])
    · exact .inl rfl

theorem takeInput_rb {y : Input} (h : takeInput y s = .next t) : t.rb = s.rb ∨ ∃ bytes, t.rb = some (.ofBytes bytes) := by
  rcases takeInput_cases h with ⟨i, -, he⟩ | ⟨bytes, -, rfl⟩ | ⟨op, position, -, rfl⟩ | ⟨op, -, hp⟩ | ⟨c, -, hc⟩ |
    ⟨a, -, ha⟩ | ⟨channels, -, rfl⟩ | ⟨-, rfl⟩ | ⟨frame, g, -, -, rfl⟩
  · obtain ⟨o, rfl⟩ := exec_next_eq he
    exact .inl rfl
  · exact .inr ⟨bytes, rfl⟩
  · exact .inl rfl
  · obtain ⟨frame, z, -, rfl⟩ := presentFrame_cases hp
    exact .inl rfl
  · obtain ⟨-, -, -, hrb, -⟩ := startCall_frame hc
    exact .inl hrb
  · exact takeAnswer_rb ha
  · exact .inl rfl
  · exact .inl rfl
  · exact .inl rfl

theorem takeInput_buffer {y : Input} (hs : ∀ m, s.rb = some m → m.wf) (h : takeInput y s = .next t) :
    ∀ m, t.rb = some m → m.wf := by
  intro m hm
  rcases takeInput_rb h with hrb | ⟨bytes, hrb⟩
  · exact hs m (hrb ▸ hm)
  · obtain rfl := Option.some.inj (hrb.symm.trans hm)
    exact Memory.ofBytes_wf bytes

/-- A presentation puts out the frame at a port, which is one of the block's. -/
theorem takeInput_presented {y : Input} (hframed : s.out.framed) (hs : s.presentedOk) (h : takeInput y s = .next t) :
    t.presentedOk := by
  by_cases hp : ∃ op, y = .presentFrame op
  · obtain ⟨op, rfl⟩ := hp
    obtain ⟨frame, z, hframe, rfl⟩ := presentFrame_cases h
    exact fun _ => hframed.frame hframe
  · have hsame := (takeInput_serial h (not_exists.1 hp)).1
    rwa [State.presentedOk, hsame]

theorem takeInput_inv {y : Input} (hs : s.Inv) (h : takeInput y s = .next t) : t.Inv := by
  obtain ⟨hbuffer, hframed, hpresented, hsession⟩ := State.inv_iff.1 hs
  exact State.inv_iff.2 ⟨takeInput_buffer hbuffer h, takeInput_framed hframed h, takeInput_presented hframed hpresented h,
    takeInput_session_ok hsession h⟩

/-- What the environment does next is no part of the invariant. -/
theorem State.Inv.withInputs (hs : s.Inv) (rest : List Input) : ({ s with inputs := rest } : State).Inv :=
  ⟨hs.buffer, hs.framed, hs.presented, hs.bus, hs.owned, hs.guarded, hs.activity, hs.cached⟩

end

/-- Settles O41: a step takes the oldest input, and every input keeps each of the invariant's parts. -/
theorem everyStepKeepsTheInvariant : Obligations.EveryStepKeepsTheInvariant := by
  unfold Obligations.EveryStepKeepsTheInvariant
  intro s t hs h
  obtain ⟨y, rest, -, hy⟩ := step_cases h
  exact takeInput_inv (hs.withInputs rest) hy

/-- Settles O40: at the start no port holds a value, the trace is empty and no procedure is in progress. -/
theorem startMeetsTheInvariant : Obligations.StartMeetsTheInvariant := by
  unfold Obligations.StartMeetsTheInvariant
  exact State.inv_iff.2 ⟨nofun, ⟨nofun, nofun, nofun⟩, fun h => absurd rfl h, nofun, nofun, rfl, trivial, fun _ => rfl⟩

/-- Settles O39: each field of the start is as its definition gives it, in the device for each of the four channels. -/
theorem startIsAsGiven : Obligations.StartIsAsGiven := by
  unfold Obligations.StartIsAsGiven
  refine ⟨rfl, rfl, rfl, rfl, fun c => ?inputReg, rfl, rfl, rfl, fun c => ?output, rfl, rfl⟩
  case inputReg => cases c <;> rfl
  case output => cases c <;> rfl

end Sys2Proof.Machine
end

section
/-! ENCSW's image and injectivity (40_encode_sequential_write.md R73), and its default for an absent latch flag (92 D8): what
two command bytes, two words and two values have in common. -/

namespace Sys2Proof

theorem highByte_lowByte_inj {w w' : SettingsWord} : highByte w = highByte w' ∧ lowByte w = lowByte w' ↔ w = w' := by
  refine ⟨fun ⟨hhigh, hlow⟩ => ?_, fun h => h ▸ ⟨rfl, rfl⟩⟩
  rw [← wordOfBytes_high_low w, hhigh, hlow, wordOfBytes_high_low]

theorem fieldsWord_injective : Function.Injective fieldsWord :=
  Function.LeftInverse.injective wordFields_fieldsWord

theorem ofNat12_eq_iff {v v' : Nat} : BitVec.ofNat 12 v = BitVec.ofNat 12 v' ↔ v % 4096 = v' % 4096 := by
  rw [← BitVec.toNat_inj, BitVec.toNat_ofNat, BitVec.toNat_ofNat]

/-- The command bytes of a sequential write are the eight bytes `0x40` to `0x47` (30_encoding.md R53). -/
theorem exists_swcmd_iff {b : Byte} : (∃ c u, swcmd c u = b) ↔ 0x40 ≤ b.toNat ∧ b.toNat ≤ 0x47 := by
  constructor
  · rintro ⟨c, u, rfl⟩
    have hc : c.code.toNat < 4 := c.code.isLt
    have hu := Bool.toNat_le u
    rw [swcmd_toNat]
    omega
  · intro hb
    have hmask : ∀ b : Byte, 0x40 ≤ b.toNat ∧ b.toNat ≤ 0x47 → b &&& 0xF8 = 0x40 := by decide
    exact ⟨_, _, swcmd_of_classify (classify_of_mask (hmask b hb))⟩

end Sys2Proof

namespace Sys2Proof.Machine

/-- ENCSW on a tuple of fields drives their pattern (30_encoding.md R53, R54). -/
theorem exec_encsw_fields (c : Channel) (u : Bool) (f : Fields) (s : State) :
    exec (.encsw c f.value.toNat f.ref f.pd f.gain (some u)) s =
      .next (s.putEncsw [swcmd c u, highByte (fieldsWord f), lowByte (fieldsWord f)]) := by
  rw [exec_encsw_pattern, udacOrDefault, Option.getD_some, BitVec.ofNat_toNat, BitVec.setWidth_eq]

/-- Settles O10: the command byte is injective in channel and flag, the word in its fields, and its fields in the value's low
12 bits; each command byte and each word is one of ENCSW's. -/
theorem encswIsInjectiveAndReachesEveryFrame : Obligations.EncswIsInjectiveAndReachesEveryFrame := by
  unfold Obligations.EncswIsInjectiveAndReachesEveryFrame
  refine ⟨fun c c' v v' r r' p p' g g' u u' s => ?injective, fun frame s => ⟨?emitted, ?reached⟩⟩
  case injective =>
    refine ⟨_, _, _, _, _, _, _, _, exec_encsw_pattern c v r p g (some u) s, rfl,
      exec_encsw_pattern c' v' r' p' g' (some u') s, rfl, swcmd_injective, ?_⟩
    rw [highByte_lowByte_inj, fieldsWord_injective.eq_iff, Fields.mk.injEq, ofNat12_eq_iff]
  case emitted =>
    rintro ⟨c, v, r, p, g, u, t, hexec, hframe⟩
    rw [exec_encsw_pattern] at hexec
    cases hexec
    exact ⟨_, _, _, (Option.some.inj hframe).symm, exists_swcmd_iff.1 ⟨c, u, rfl⟩⟩
  case reached =>
    rintro ⟨b0, b1, b2, rfl, hb0⟩
    obtain ⟨c, u, rfl⟩ := exists_swcmd_iff.2 hb0
    refine ⟨c, _, _, _, _, u, _, exec_encsw_fields c u (wordFields (wordOfBytes b1 b2)) s, ?_⟩
    rw [State.putEncsw_out, fieldsWord_wordFields, highByte_wordOfBytes, lowByte_wordOfBytes]

/-- Settles O12: the flag is read through its default, which is false. -/
theorem encswAbsentLatchFlagIsFalse : Obligations.EncswAbsentLatchFlagIsFalse := by
  unfold Obligations.EncswAbsentLatchFlagIsFalse
  intro c v r p g s
  have hflag : udacOrDefault none = udacOrDefault (some false) := rfl
  rw [exec_encsw, exec_encsw, hflag]

end Sys2Proof.Machine
end

section
/-! DECW as a bijection of words and field tuples, and the bits that each of its outputs is read from
(41_decode_channel_word.md R83, R86). -/

namespace Sys2Proof.Machine

/-- Settles O14: the fields of a word and the word of fields are inverse to each other, and so are a word and its bytes. -/
theorem decwIsABijection : Obligations.DecwIsABijection := by
  unfold Obligations.DecwIsABijection
  refine ⟨fun hi lo s => ?composed, fun f => ⟨(highByte (fieldsWord f), lowByte (fieldsWord f)), ?preimage, ?unique⟩⟩
  case composed =>
    exact ⟨_, _, exec_decw_word hi lo s, rfl, fieldsWord_wordFields (wordOfBytes hi lo)⟩
  case preimage =>
    exact fun s => ⟨_, exec_decw_fieldsWord f s, rfl⟩
  case unique =>
    rintro ⟨hi, lo⟩ h
    obtain ⟨t, hexec, hport⟩ := h State.reset
    rw [exec_decw_word] at hexec
    cases hexec
    obtain rfl : wordFields (wordOfBytes hi lo) = f := Option.some.inj hport
    rw [fieldsWord_wordFields, highByte_wordOfBytes, lowByte_wordOfBytes]

/-- A one-bit field is its bit. -/
theorem extractLsb'_one_congr {x y : Byte} {i : Nat} (h : x.getLsbD i = y.getLsbD i) :
    x.extractLsb' i 1 = y.extractLsb' i 1 := by
  apply BitVec.eq_of_getLsbD_eq
  intro j hj
  obtain rfl : j = 0 := by omega
  simpa using h

/-- Settles O16: DECW reads each output from the bits that 41 R81 names for it. -/
theorem decwOutputsDependOnTheirBitsOnly : Obligations.DecwOutputsDependOnTheirBitsOnly := by
  unfold Obligations.DecwOutputsDependOnTheirBitsOnly
  intro hi lo hi' lo' s
  refine ⟨_, _, _, _, exec_decw hi lo s, rfl, exec_decw hi' lo' s, rfl, fun h => ?ref, fun h => ?pd, fun h => ?gain,
    fun h hlo => ?value⟩
  case ref => exact congrArg Reference.ofCode (extractLsb'_one_congr h)
  case pd => exact congrArg PowerDown.ofCode h
  case gain => exact congrArg Gain.ofCode (extractLsb'_one_congr h)
  case value => rw [decodeWord, decodeWord, h, hlo]

end Sys2Proof.Machine
end

section
/-! The read buffer as data (20_memory.md R31; log 2): its canonical form lists exactly the bytes that are read and are not
`unlisted`, so it is determined by what is read. -/

namespace Sys2Proof.Machine

theorem Memory.lookup_of_mem {cells : List Host.Cell} (hrising : cells.Pairwise fun x y => x.1 < y.1) {c : Host.Cell}
    (hc : c ∈ cells) : Memory.lookup cells c.1 = c.2 := by
  induction cells with
  | nil => cases hc
  | cons d rest ih =>
    obtain ⟨hd, hrest⟩ := List.pairwise_cons.1 hrising
    rcases List.mem_cons.1 hc with rfl | hmem
    · exact if_pos rfl
    · exact (if_neg (Nat.ne_of_lt (hd c hmem))).trans (ih hrest hmem)

theorem Memory.mem_of_lookup {cells : List Host.Cell} {a : Nat} (h : Memory.lookup cells a ≠ Memory.unlisted) :
    (a, Memory.lookup cells a) ∈ cells := by
  induction cells with
  | nil => exact absurd rfl h
  | cons d rest ih =>
    obtain ⟨k, b⟩ := d
    by_cases hk : k = a
    · rw [Memory.lookup, if_pos hk, hk]
      exact List.mem_cons_self
    · rw [Memory.lookup, if_neg hk] at h ⊢
      exact List.mem_cons_of_mem _ (ih h)

theorem Memory.nodup_of_rising {cells : List Host.Cell} (hrising : cells.Pairwise fun x y => x.1 < y.1) : cells.Nodup :=
  hrising.imp fun hlt => ne_of_apply_ne Prod.fst (Nat.ne_of_lt hlt)

/-- What a canonical buffer lists is what it reads, but for `unlisted`. -/
theorem Memory.mem_cells_iff {m : Memory} (h : m.wf) (c : Host.Cell) :
    c ∈ m.cells ↔ m.read c.1 = some c.2 ∧ c.2 ≠ Memory.unlisted := by
  obtain ⟨hrising, hcells⟩ := h
  constructor
  · intro hc
    obtain ⟨hlt, hne⟩ := hcells c hc
    exact ⟨(Memory.read_of_lt hlt).trans (congrArg some (Memory.lookup_of_mem hrising hc)), hne⟩
  · rintro ⟨hread, hne⟩
    rw [Memory.read, Option.ite_none_right_eq_some, Option.some.injEq] at hread
    obtain ⟨-, hbyte⟩ := hread
    obtain ⟨a, b⟩ := c
    obtain rfl : Memory.lookup m.cells a = b := hbyte
    exact Memory.mem_of_lookup hne

/-- Settles O18: buffers that read the same list the same cells, and a strictly rising list is determined by its members. -/
theorem canonicalBufferIsUnique : Obligations.CanonicalBufferIsUnique := by
  unfold Obligations.CanonicalBufferIsUnique
  rintro ⟨len, cells⟩ ⟨len', cells'⟩ h h' rfl hread
  have hmem : ∀ c, c ∈ cells ↔ c ∈ cells' := by
    intro c
    rw [Memory.mem_cells_iff h, Memory.mem_cells_iff h', hread]
  have hperm : cells.Perm cells' :=
    (List.perm_ext_iff_of_nodup (Memory.nodup_of_rising h.1) (Memory.nodup_of_rising h'.1)).2 hmem
  have hcells : cells = cells' :=
    hperm.eq_of_pairwise (fun x y _ _ hxy hyx => absurd hyx (Nat.lt_asymm hxy)) h.1 h'.1
  rw [hcells]

/-- Settles O17: the byte sequence driven is what reading gives back, and only RB and two ports change. -/
theorem drivenBufferIsReadBack : Obligations.DrivenBufferIsReadBack := by
  unfold Obligations.DrivenBufferIsReadBack
  intro bytes rest s hin
  exact ⟨_, step_driveBuffer hin, Memory.read_ofBytes bytes, rfl, rfl, rfl, rfl, rfl, rfl, rfl⟩

end Sys2Proof.Machine
end

section
/-! EXTW's length check and its composition with DECW (42_extract_channel_word.md R92, R97; 60_exceptions.md R111). -/

namespace Sys2Proof.Machine

/-- Settles O20: the check is on the length alone. -/
theorem extwFailsExactlyOnWrongLength : Obligations.ExtwFailsExactlyOnWrongLength := by
  unfold Obligations.ExtwFailsExactlyOnWrongLength
  intro bytes c s hrb
  refine ⟨_, exec_extw_of_driven hrb c, fun hlen => ?short, fun hlen => ?full⟩
  case short =>
    rw [extractWord_of_not_full hlen]
    exact ⟨rfl, rfl, rfl⟩
  case full =>
    rw [extractWord_of_full hlen]
    exact ⟨rfl, _, rfl⟩

/-- Settles O22: the fields of the word that EXTW gives compose to that word. -/
theorem extwThenDecwReportsTheChannel : Obligations.ExtwThenDecwReportsTheChannel := by
  unfold Obligations.ExtwThenDecwReportsTheChannel
  intro bytes c s hlen hrb
  obtain ⟨hi, lo, hhi, hlo, hexec⟩ := exec_extw_of_bytes hlen hrb c
  refine ⟨_, _, hi, lo, _, hexec, rfl, exec_decw_word hi lo _, rfl, ?_⟩
  calc some (fieldsWord (wordFields (wordOfBytes hi lo))).toNat
    _ = some (256 * hi.toNat + lo.toNat) := by rw [fieldsWord_wordFields, wordOfBytes_toNat, Nat.mul_comm]
    _ = _ := by rw [hhi, hlo, Option.bind_some, Option.map_some]

/-- Settles O23: both operations ask for RB before anything else. -/
theorem undrivenBufferGivesNoResult : Obligations.UndrivenBufferGivesNoResult := by
  unfold Obligations.UndrivenBufferGivesNoResult
  exact fun c s hrb => ⟨exec_extw_of_undriven hrb c, exec_commit_of_undriven hrb⟩

/-- Settles O24: with 24 bytes at RB both operations give an `ok`, whatever their ports held. -/
theorem lengthErrorIsNotSticky : Obligations.LengthErrorIsNotSticky := by
  unfold Obligations.LengthErrorIsNotSticky
  intro bytes n c s hlen _ _
  have hrb : (s.driveBuffer (.ofBytes bytes)).rb = some (.ofBytes bytes) := rfl
  refine ⟨_, _, exec_extw_of_driven hrb c, ?extw, exec_commit_of_driven hrb, ?commit⟩
  case extw => rw [extractWord_of_full hlen]; rfl
  case commit => rw [commitFrame_of_full hlen]; rfl

end Sys2Proof.Machine
end

section
/-! ENCEE and COMMIT: where each byte of the 9-byte frame comes from (43_encode_eeprom_commit.md R101, R104, R105). -/

namespace Sys2Proof.Machine

section

variable {m m' : Memory}

/-- Word `k` of ENCEE stands at positions `1 + 2k` and `2 + 2k`, high byte first (43 R99). -/
theorem eeFrame_word (w : Fin 4 → SettingsWord) (k : Fin 4) :
    (eeFrame (w 0) (w 1) (w 2) (w 3))[1 + 2 * k.val]? = some (highByte (w k)) ∧
      (eeFrame (w 0) (w 1) (w 2) (w 3))[2 + 2 * k.val]? = some (lowByte (w k)) := by
  rw [eeFrame_eq]
  fin_cases k <;> exact ⟨rfl, rfl⟩

theorem eeFrame_length (a b c d : SettingsWord) : (eeFrame a b c d).length = 9 := rfl

theorem eeFrame_injective {a b c d a' b' c' d' : SettingsWord} (h : eeFrame a b c d = eeFrame a' b' c' d') :
    a = a' ∧ b = b' ∧ c = c' ∧ d = d' := by
  simp only [eeFrame_eq, List.cons.injEq, true_and, and_true] at h
  obtain ⟨ha, ha', hb, hb', hc, hc', hd, hd'⟩ := h
  exact ⟨highByte_lowByte_inj.1 ⟨ha, ha'⟩, highByte_lowByte_inj.1 ⟨hb, hb'⟩, highByte_lowByte_inj.1 ⟨hc, hc'⟩,
    highByte_lowByte_inj.1 ⟨hd, hd'⟩⟩

/-- The frames of ENCEE are the 9-byte sequences that start with `0x50` (43 R101). -/
theorem exists_eeFrame_iff {frame : List Byte} :
    (∃ a b c d, eeFrame a b c d = frame) ↔ frame.length = 9 ∧ frame[0]? = some 0x50 := by
  constructor
  · rintro ⟨a, b, c, d, rfl⟩
    exact ⟨eeFrame_length a b c d, rfl⟩
  · rintro ⟨hlen, h0⟩
    match frame, hlen with
    | [b0, a1, a0, b1, b0', c1, c0, d1, d0], _ =>
      obtain rfl : b0 = 0x50 := Option.some.inj h0
      refine ⟨wordOfBytes a1 a0, wordOfBytes b1 b0', wordOfBytes c1 c0, wordOfBytes d1 d0, ?_⟩
      simp only [eeFrame_eq, highByte_wordOfBytes, lowByte_wordOfBytes]

/-- COMMIT composes EXTW for the four channels with ENCEE (43 R104). -/
theorem commitFrame_eq_eeFrame (h : m.len = 24) : commitFrame m =
    .ok (eeFrame (wordOfBytes (m.byteAt 1) (m.byteAt 2)) (wordOfBytes (m.byteAt 7) (m.byteAt 8))
      (wordOfBytes (m.byteAt 13) (m.byteAt 14)) (wordOfBytes (m.byteAt 19) (m.byteAt 20))) := by
  simp only [commitFrame, extractWord_of_full h, CodecResult.bind]
  rfl

/-- Two full buffers that agree at the eight word addresses give one frame (20_memory.md R34). -/
theorem commitFrame_congr (h : m.len = 24) (h' : m'.len = 24)
    (hbytes : ∀ a ∈ [1, 2, 7, 8, 13, 14, 19, 20], m.byteAt a = m'.byteAt a) : commitFrame m = commitFrame m' := by
  simp only [List.forall_mem_cons] at hbytes
  obtain ⟨h1, h2, h7, h8, h13, h14, h19, h20, -⟩ := hbytes
  rw [commitFrame_of_full h, commitFrame_of_full h', h1, h2, h7, h8, h13, h14, h19, h20]

/-- The byte map of 43 R105. -/
theorem commitFrame_byte (h : m.len = 24) : ∃ frame, commitFrame m = .ok frame ∧ frame.length = 9 ∧
    frame[0]? = some 0x50 ∧ ∀ i, 1 ≤ i → i ≤ 8 → frame[i]? = some (m.byteAt (6 * ((i - 1) / 2) + 1 + (i - 1) % 2)) := by
  refine ⟨_, commitFrame_of_full h, rfl, rfl, fun i hi hi' => ?_⟩
  interval_cases i <;> rfl

theorem byteAt_ofBytes_congr {bytes bytes' : List Byte} {a : Nat} (h : bytes[a]? = bytes'[a]?) :
    (Memory.ofBytes bytes).byteAt a = (Memory.ofBytes bytes').byteAt a := by
  rw [Memory.byteAt_ofBytes, Memory.byteAt_ofBytes, List.getD_eq_getElem?_getD, List.getD_eq_getElem?_getD, h]

end

/-- Settles O26: the frame is the eight halves of the words behind `0x50`, and every word is its two halves. -/
theorem enceePassesTheWordsVerbatim : Obligations.EnceePassesTheWordsVerbatim := by
  unfold Obligations.EnceePassesTheWordsVerbatim
  refine ⟨fun w s => ?verbatim, fun a b c d a' b' c' d' s t t' ht ht' hout => ?injective, fun frame s => ?image⟩
  case verbatim =>
    refine ⟨_, _, exec_encee _ _ _ _ s, rfl, fun k => ?_⟩
    obtain ⟨hhi, hlo⟩ := eeFrame_word w k
    exact ⟨_, _, hhi, hlo, wordOfBytes_high_low (w k)⟩
  case injective =>
    rw [exec_encee] at ht ht'
    cases ht
    cases ht'
    exact eeFrame_injective (Option.some.inj hout)
  case image =>
    rw [← exists_eeFrame_iff]
    constructor
    · rintro ⟨a, b, c, d, t, hexec, hport⟩
      exact ⟨a, b, c, d, (eq_eeFrame_of_exec_encee hexec hport).symm⟩
    · rintro ⟨a, b, c, d, rfl⟩
      exact ⟨a, b, c, d, _, exec_encee a b c d s, rfl⟩

/-- Settles O30: COMMIT's frame byte by byte, read off the byte sequence at RB. -/
theorem commitIsTheByteMap : Obligations.CommitIsTheByteMap := by
  unfold Obligations.CommitIsTheByteMap
  intro bytes s hlen hrb
  obtain ⟨frame, hcommit, hlen9, hcmd, hbyte⟩ := commitFrame_byte (m := .ofBytes bytes) hlen
  refine ⟨frame, ?_, hlen9, hcmd, fun i hi hi' => ?_⟩
  · rw [exec_commit_of_driven hrb, hcommit]
    rfl
  · have haddr : 6 * ((i - 1) / 2) + 1 + (i - 1) % 2 < bytes.length := by omega
    rw [hbyte i hi hi', getElem?_eq_some_byteAt haddr]

/-- Settles O31: COMMIT is defined as this composition; the check on the length is EXTW's. -/
theorem commitIsExtwFourTimesThenEncee : Obligations.CommitIsExtwFourTimesThenEncee := by
  unfold Obligations.CommitIsExtwFourTimesThenEncee
  intro m s hrb
  refine ⟨fun hlen => ?full, fun hlen => ?short⟩
  case full =>
    have hextw : ∀ c, exec (.extw c) s =
        .next (s.putExtw (.ok (m.byteAt (6 * c.code.toNat + 1), m.byteAt (6 * c.code.toNat + 2)))) := by
      intro c
      rw [exec_extw_of_driven hrb, extractWord_of_full hlen]
    refine ⟨_, _, _, _, _, _, _, _, _, _, _, _, _, _, hextw .A, rfl, hextw .B, rfl, hextw .C, rfl, hextw .D, rfl,
      exec_encee _ _ _ _ s, rfl, ?_⟩
    rw [exec_commit_of_driven hrb, commitFrame_eq_eeFrame hlen]
    rfl
  case short =>
    refine ⟨_, exec_commit_of_driven hrb, ?_⟩
    rw [commitFrame_of_not_full hlen]
    exact ⟨rfl, rfl, rfl⟩

/-- Settles O32: the frame is a function of the bytes at those eight addresses. -/
theorem commitDependsOnEightBytesOnly : Obligations.CommitDependsOnEightBytesOnly := by
  unfold Obligations.CommitDependsOnEightBytesOnly
  intro bytes bytes' s s' hlen hlen' hrb hrb' hbytes
  refine ⟨_, _, exec_commit_of_driven hrb, exec_commit_of_driven hrb', ?_⟩
  have hframe : commitFrame (.ofBytes bytes) = commitFrame (.ofBytes bytes') :=
    commitFrame_congr hlen hlen' fun a ha => byteAt_ofBytes_congr (hbytes a ha)
  rw [State.putCommit_out, State.putCommit_out, hframe]

end Sys2Proof.Machine
end

section
/-! The byte multiplexer and the serial presentation (30_encoding.md R52; 43_encode_eeprom_commit.md R102; log 29): its output
is a function of the position selected and of the frame now at the unit's port. -/

namespace Sys2Proof.Machine

theorem serialByte_of_select {s : State} {op : Op} {i : Nat} (h : s.select = some ⟨op, i⟩) :
    s.serialByte = (s.out.frame op).bind (·[i]?) := by
  rw [State.serialByte, h, Option.bind_some]

theorem serialByte_of_frame {s : State} {op : Op} {i : Nat} {frame : List Byte} (h : s.select = some ⟨op, i⟩)
    (hf : s.out.frame op = some frame) : s.serialByte = frame[i]? := by
  rw [serialByte_of_select h, hf, Option.bind_some]

theorem serialByte_of_no_frame {s : State} {op : Op} {i : Nat} (h : s.select = some ⟨op, i⟩)
    (hf : s.out.frame op = none) : s.serialByte = none := by
  rw [serialByte_of_select h, hf, Option.bind_none]

/-- ENCEE's frame by position: the command byte, then the high byte of a word at an odd and its low byte at an even
position (43 R102). -/
theorem eeFrame_position (w : Fin 4 → SettingsWord) {i : Nat} {k : Fin 4} (hk : k.val = (i - 1) / 2) (hi : 1 ≤ i) :
    (eeFrame (w 0) (w 1) (w 2) (w 3))[i]? = some (if i % 2 = 1 then highByte (w k) else lowByte (w k)) := by
  obtain ⟨hhi, hlo⟩ := eeFrame_word w k
  by_cases hodd : i % 2 = 1
  · rw [if_pos hodd, ← hhi]
    congr 1
    omega
  · rw [if_neg hodd, ← hlo]
    congr 1
    omega

/-- Settles O27: either order ends with position `i` selected and ENCEE's frame at its port. -/
theorem enceeIsTheByteMultiplexer : Obligations.EnceeIsTheByteMultiplexer := by
  unfold Obligations.EnceeIsTheByteMultiplexer
  intro w i s rest x y hxy hin
  have hsteps : ∃ t u, step s = .next t ∧ step t = .next u ∧ u.select = some ⟨.encee, i⟩ ∧
      u.out.frame .encee = some (eeFrame (w 0) (w 1) (w 2) (w 3)) := by
    rcases hxy with ⟨rfl, rfl⟩ | ⟨rfl, rfl⟩
    · exact ⟨_, _, (step_evaluate hin).trans (exec_encee _ _ _ _ _), step_selectByte rfl, rfl, rfl⟩
    · exact ⟨_, _, step_selectByte hin, (step_evaluate rfl).trans (exec_encee _ _ _ _ _), rfl, rfl⟩
  obtain ⟨t, u, ht, hu, hselect, hframe⟩ := hsteps
  have hbyte := serialByte_of_frame hselect hframe
  refine ⟨t, u, ht, hu, fun hi => ?command, fun k hk hi _ => ?word, fun hi => ?beyond⟩
  case command => rw [hbyte, hi]; rfl
  case word => exact hbyte.trans (eeFrame_position w hk hi)
  case beyond => exact hbyte.trans (List.getElem?_eq_none (by rw [eeFrame_length]; exact hi))

/-- Settles O28: an operation leaves the position, so the byte is that of the frame then at the port. -/
theorem serialPresentationIsByIndex : Obligations.SerialPresentationIsByIndex := by
  unfold Obligations.SerialPresentationIsByIndex
  intro op i s rest hin
  refine ⟨_, step_selectByte hin, rfl, fun frame hf => serialByte_of_frame rfl hf, fun hf => serialByte_of_no_frame rfl hf,
    fun j u hexec => ?afterwards⟩
  case afterwards =>
    obtain ⟨o, rfl⟩ := exec_next_eq hexec
    exact ⟨fun frame hf => serialByte_of_frame rfl hf, fun hf => serialByte_of_no_frame rfl hf⟩

/-- Settles O29: a presentation takes the whole frame in order, and selecting a position gives the frame's byte there. -/
theorem framesArePresentedInOrderEachByteOnce : Obligations.FramesArePresentedInOrderEachByteOnce := by
  unfold Obligations.FramesArePresentedInOrderEachByteOnce
  intro op s rest hin
  refine ⟨fun frame hne hf => ⟨?whole, fun i hi => ?byte⟩, fun hf => ?absent⟩
  case whole =>
    rw [step_presentFrame hf hin, if_neg (mt List.length_eq_zero_iff.1 hne)]
  case byte =>
    refine ⟨_, step_selectByte rfl, ?_⟩
    rw [← List.getElem?_eq_getElem hi]
    exact serialByte_of_frame rfl hf
  case absent =>
    rw [step_of_inputs hin]
    simp only [takeInput, presentFrame, hf]

end Sys2Proof.Machine
end

section
/-! All five operations at once (00_scope.md R10; 30_encoding.md R50; 60_exceptions.md R125): each completes where its inputs
are driven, depends on them only, and drives its own port only. -/

namespace Sys2Proof.Machine

section

variable {i : Instr} {s s' t : State}

/-- An operation leaves every other unit's port. -/
theorem exec_agreeAt_of_ne {op : Op} (h : exec i s = .next t) (hop : op ≠ i.op) : Outputs.agreeAt op t.out s.out := by
  rcases exec_cases h with ⟨c, v, r, p, g, u, rfl, rfl⟩ | ⟨hi, lo, rfl, rfl⟩ | ⟨c, m, rfl, -, rfl⟩ | ⟨a, b, c, d, rfl, rfl⟩ |
    ⟨m, rfl, -, rfl⟩
  · cases op with
    | encsw => exact absurd rfl hop
    | _ => rfl
  · cases op with
    | decw => exact absurd rfl hop
    | _ => rfl
  · cases op with
    | extw => exact absurd rfl hop
    | _ => rfl
  · cases op with
    | encee => exact absurd rfl hop
    | _ => rfl
  · cases op with
    | commit => exact absurd rfl hop
    | _ => rfl

/-- What an operation drives is a function of its operands and of RB. -/
theorem exec_agreeAt_of_rb (hrb : s'.rb = s.rb) (h : exec i s = .next t) :
    ∃ t', exec i s' = .next t' ∧ Outputs.agreeAt i.op t.out t'.out := by
  rcases exec_cases h with ⟨c, v, r, p, g, u, rfl, rfl⟩ | ⟨hi, lo, rfl, rfl⟩ | ⟨c, m, rfl, hm, rfl⟩ | ⟨a, b, c, d, rfl, rfl⟩ |
    ⟨m, rfl, hm, rfl⟩
  · exact ⟨_, exec_encsw c v r p g u s', rfl⟩
  · exact ⟨_, exec_decw hi lo s', rfl⟩
  · exact ⟨_, exec_extw_of_driven (hrb.trans hm) c, rfl⟩
  · exact ⟨_, exec_encee a b c d s', rfl⟩
  · exact ⟨_, exec_commit_of_driven (hrb.trans hm), rfl⟩

theorem swcmd_ne_baseEe (c : Channel) (u : Bool) : swcmd c u ≠ 0x50 := by
  intro h
  have hkind := classify_swcmd c u
  rw [h, classify_baseEe] at hkind
  cases hkind

theorem exists_of_isEeFrame {frame : List Byte} (h : isEeFrame frame = true) :
    ∃ rest, frame = 0x50 :: rest ∧ rest.length = 8 := by
  unfold isEeFrame at h
  split at h
  · exact ⟨_, congrArg (· :: _) (eq_of_beq h), rfl⟩
  · cases h

/-- What a unit's port holds after an evaluation, if it is a frame: a sequential write's for ENCSW, an EEPROM commit's for
ENCEE and COMMIT (30_encoding.md R55, R57). -/
theorem exec_frame_cases {frame : List Byte} (h : exec i s = .next t) (hf : t.out.frame i.op = some frame) :
    (i.op = .encsw ∧ ∃ c u b1 b2, frame = [swcmd c u, b1, b2]) ∨
      ((i.op = .encee ∨ i.op = .commit) ∧ ∃ rest, frame = 0x50 :: rest ∧ rest.length = 8) := by
  rcases exec_cases h with ⟨c, v, r, p, g, u, rfl, rfl⟩ | ⟨hi, lo, rfl, rfl⟩ | ⟨c, m, rfl, -, rfl⟩ | ⟨a, b, c, d, rfl, rfl⟩ |
    ⟨m, rfl, -, rfl⟩
  · exact .inl ⟨rfl, c, _, _, _, (Option.some.inj hf).symm.trans (swFrame_eq c v r p g _)⟩
  · cases hf
  · cases hf
  · refine .inr ⟨.inl rfl, exists_of_isEeFrame ?_⟩
    exact Option.some.inj hf ▸ isEeFrame_eeFrame a b c d
  · refine .inr ⟨.inr rfl, exists_of_isEeFrame (isEeFrame_of_commitFrame (m := m) ?_)⟩
    have hdata : (commitFrame m).data = some frame := hf
    cases hm : commitFrame m with
    | ok f => rw [hm] at hdata; exact congrArg CodecResult.ok (Option.some.inj hdata)
    | invalidBufferLength n => rw [hm] at hdata; cases hdata

end

/-- Settles O33: only EXTW and COMMIT ask for anything, namely for RB. -/
theorem everyOperationCompletes : Obligations.EveryOperationCompletes := by
  unfold Obligations.EveryOperationCompletes
  intro i s hrb
  cases i with
  | encsw c v r p g u => exact ⟨_, exec_encsw c v r p g u s⟩
  | decw hi lo => exact ⟨_, exec_decw hi lo s⟩
  | extw c =>
    obtain ⟨m, hm⟩ := Option.ne_none_iff_exists'.1 (hrb (.inl rfl))
    exact ⟨_, exec_extw_of_driven hm c⟩
  | encee a b c d => exact ⟨_, exec_encee a b c d s⟩
  | commit =>
    obtain ⟨m, hm⟩ := Option.ne_none_iff_exists'.1 (hrb (.inr rfl))
    exact ⟨_, exec_commit_of_driven hm⟩

/-- Settles O34: an operation changes the output ports only, and of those its own. -/
theorem operationsDriveTheirOwnPortOnly : Obligations.OperationsDriveTheirOwnPortOnly := by
  unfold Obligations.OperationsDriveTheirOwnPortOnly
  intro i s t h
  refine ⟨fun op hop => exec_agreeAt_of_ne h hop, ?_⟩
  obtain ⟨o, rfl⟩ := exec_next_eq h
  exact ⟨rfl, rfl, fun _ => rfl, rfl, rfl, rfl, rfl, rfl⟩

/-- Settles O35: the second part follows from the first, since no operation changes RB. -/
theorem operationsArePure : Obligations.OperationsArePure := by
  unfold Obligations.OperationsArePure
  refine ⟨fun i s s' t hrb h => exec_agreeAt_of_rb hrb.symm h, fun i j s s1 t hj h => exec_agreeAt_of_rb ?_ h⟩
  obtain ⟨o, rfl⟩ := exec_next_eq hj
  rfl

/-- Settles O36: the command byte of either frame tells its kind, and the two kinds have different bits 7 to 3. -/
theorem emittedFramesTellTheirLength : Obligations.EmittedFramesTellTheirLength := by
  unfold Obligations.EmittedFramesTellTheirLength
  intro i s t frame h hf
  rcases exec_frame_cases h hf with ⟨hop, c, u, b1, b2, rfl⟩ | ⟨hop, rest, rfl, hrest⟩
  · refine ⟨_, _, rfl, ?_, iff_of_true hop (swcmd_prefix c u), iff_of_false ?_ (swcmd_ne_baseEe c u)⟩
    · rw [classify_swcmd]
      rfl
    · rw [hop]
      decide
  · refine ⟨_, rest, rfl, ?_, iff_of_false ?_ (by decide), iff_of_true hop rfl⟩
    · rw [classify_baseEe, List.length_cons, hrest]
      rfl
    · rcases hop with hop | hop <;> rw [hop] <;> decide

end Sys2Proof.Machine
end

section
/-! What the next input makes the machine do (30_encoding.md R68), and where a step stops: a call outside the contract (93 U16),
a transport that never answers (60_exceptions.md R122). -/

namespace Sys2Proof.Machine

section

variable {s : State} {rest : List Input}

theorem step_present_undecodable {op : Op} {bytes : List Byte} {why : DecodeError}
    (hin : s.inputs = .present op bytes :: rest) (hd : decode op bytes = .error why) :
    step s = .refused (.undecodable why) := by
  rw [step_of_inputs hin]
  simp only [takeInput, present, hd]

theorem decode_of_decodeTableWord {nbits w : Nat} {i : Instr} (h : decodeTableWord nbits w = some i) :
    decode (tableWord nbits w).op (tableWord nbits w).bytes = .ok i := by
  simp only [decodeTableWord] at h
  cases hd : decode (tableWord nbits w).op (tableWord nbits w).bytes with
  | ok j => rw [hd] at h; exact congrArg Except.ok (Option.some.inj h)
  | error why => rw [hd] at h; cases h

theorem withFetchWord_of_no_buffer {nbits w : Nat} (h : (tableWord nbits w).buffer = none) : s.withFetchWord nbits w =
    { s with inputs := .present (tableWord nbits w).op (tableWord nbits w).bytes :: s.inputs } := by
  simp only [State.withFetchWord, presentTableWord, h]

theorem withFetchWord_of_buffer {nbits w : Nat} {bytes : List Byte} (h : (tableWord nbits w).buffer = some bytes) :
    s.withFetchWord nbits w =
      ({ s with inputs := .present (tableWord nbits w).op (tableWord nbits w).bytes :: s.inputs } : State).driveBuffer
        (.ofBytes bytes) := by
  simp only [State.withFetchWord, presentTableWord, h]

theorem startCall_of_busy (h : s.session.activity ≠ .idle) (c : Call) : startCall c s = .refused .sessionBusy := by
  unfold startCall
  split
  · exact absurd ‹_› h
  · rfl

theorem takeAnswer_never (h : s.session.activity ≠ .idle) : takeAnswer .never s = .fault .transportHang := by
  unfold takeAnswer
  split
  · exact absurd ‹_› h
  all_goals rfl

end

/-- Settles O37: a step takes the oldest input, and bytes are decoded before they are run. -/
theorem stepRunsThePresentedOperation : Obligations.StepRunsThePresentedOperation := by
  unfold Obligations.StepRunsThePresentedOperation
  intro op bytes i s rest
  exact ⟨step_present, step_evaluate, fun _ => step_present_undecodable⟩

/-- Settles O38: placing the word presents its bytes as the next input, behind which the inputs stand as they were. -/
theorem stepRunsTheTableWord : Obligations.StepRunsTheTableWord := by
  unfold Obligations.StepRunsTheTableWord
  intro s nbits w i h
  have hd := decode_of_decodeTableWord h
  refine ⟨fun hbuffer => ?_, fun bytes hbuffer => ?_⟩
  · rw [withFetchWord_of_no_buffer hbuffer, step_present rfl hd]
  · rw [withFetchWord_of_buffer hbuffer, step_present rfl hd]
    rfl

/-- Settles O51: a procedure looks at the link first, and a call at the activity before that. -/
theorem callsOutsideTheContractAreRefused : Obligations.CallsOutsideTheContractAreRefused := by
  unfold Obligations.CallsOutsideTheContractAreRefused
  intro c chan x address bus s rest
  refine ⟨fun hlink hidle => ⟨fun hin => ?setChannel, fun hin => ?saveToEeprom⟩, fun hlink hidle hin => ?openSession,
    fun hbusy hin => ?busy⟩
  case setChannel =>
    rw [step_of_inputs hin]
    simp only [takeInput, startCall, hidle, startSetChannel, hlink]
  case saveToEeprom =>
    rw [step_of_inputs hin]
    simp only [takeInput, startCall, hidle, startSave, hlink]
  case openSession =>
    rw [step_of_inputs hin]
    cases hl : s.session.link with
    | disconnected => exact absurd hl hlink
    | connected conn => simp only [takeInput, startCall, hidle, startOpen, hl]
  case busy =>
    exact (step_of_inputs hin).trans (startCall_of_busy (s := { s with inputs := rest }) hbusy c)

/-- Settles O52: every procedure in progress hangs on that answer. -/
theorem unansweredTransactionHangs : Obligations.UnansweredTransactionHangs := by
  unfold Obligations.UnansweredTransactionHangs
  intro s rest hbusy hin
  exact (step_of_inputs hin).trans (takeAnswer_never hbusy)

end Sys2Proof.Machine
end

section
/-! The device's channels after each thing that reaches them (20_memory.md R44; 70_reset_and_hazards.md R142;
60_exceptions.md R110, R118): a sequential write, a failed one, the latch signal. -/

namespace Sys2Proof.Machine

section

variable {chan c : Channel} {u : Bool} {w : SettingsWord} {n : Nat} {d : Device}

theorem sequentialWrite_get_of_ne (h : c ≠ chan) : (Device.sequentialWrite chan u w n d).get c = d.get c :=
  PerChannel.get_set_of_ne _ _ h

theorem sequentialWrite_get_self :
    (Device.sequentialWrite chan u w n d).get chan = (d.get chan).take n u w :=
  PerChannel.get_set_self _ _ _

theorem take_eeprom (x : DeviceChannel) : (x.take n u w).eeprom = x.eeprom := by
  unfold DeviceChannel.take
  split <;> rfl

@[simp] theorem sequentialWrite_eeprom : ((Device.sequentialWrite chan u w n d).get c).eeprom = (d.get c).eeprom := by
  by_cases hc : c = chan
  · rw [hc, sequentialWrite_get_self, take_eeprom]
  · rw [sequentialWrite_get_of_ne hc]

/-- A latch bit that means "at once" puts the word in the input register and at the output (10_state.md R24). -/
theorem sequentialWrite_at_once (h : u = Config.bit0OneMeansImmediate) :
    ((Device.sequentialWrite chan u w n d).get chan).inputReg = w ∧
      ((Device.sequentialWrite chan u w n d).get chan).output = w := by
  have hnow : takesEffectAtOnce u = true := beq_iff_eq.2 h
  rw [sequentialWrite_get_self, DeviceChannel.take, if_pos hnow]
  exact ⟨rfl, rfl⟩

/-- The other latch bit makes the word the pending one, and leaves the output (70 R142). -/
theorem sequentialWrite_held (h : u ≠ Config.bit0OneMeansImmediate) :
    ((Device.sequentialWrite chan u w n d).get chan).pending = some w ∧
      ((Device.sequentialWrite chan u w n d).get chan).output = (d.get chan).output := by
  have hlater : takesEffectAtOnce u ≠ true := mt beq_iff_eq.1 h
  rw [sequentialWrite_get_self, DeviceChannel.take, if_neg hlater]
  exact ⟨rfl, rfl⟩

theorem failedWrite_get_of_ne (h : c ≠ chan) : (Device.failedWrite chan n d).get c = d.get c :=
  PerChannel.get_set_of_ne _ _ h

@[simp] theorem failedWrite_eeprom : ((Device.failedWrite chan n d).get c).eeprom = (d.get c).eeprom := by
  by_cases hc : c = chan
  · rw [hc, Device.failedWrite, PerChannel.get_set_self]
  · rw [failedWrite_get_of_ne hc]

@[simp] theorem eepromCommit_inputReg (words : PerChannel SettingsWord) :
    ((Device.eepromCommit words n d).get c).inputReg = (d.get c).inputReg := by
  rw [Device.eepromCommit, PerChannel.get_tabulate]

@[simp] theorem powerUp_output : ((Device.powerUp n d).get c).output = (d.get c).eeprom := by
  rw [Device.powerUp, PerChannel.get_tabulate]

/-! ### The latch signal -/

variable {channels : PerChannel Bool}

theorem latch_get_of_not_given (h : channels.get c = false) : (Device.latch channels d).get c = d.get c := by
  rw [Device.latch, PerChannel.get_tabulate, h]
  rfl

theorem latch_get_of_given (h : channels.get c = true) : (Device.latch channels d).get c = (d.get c).latch := by
  rw [Device.latch, PerChannel.get_tabulate, if_pos h]

theorem channelLatch_of_none {x : DeviceChannel} (h : x.pending = none) : x.latch = x := by
  rw [DeviceChannel.latch, h]

theorem channelLatch_of_some {x : DeviceChannel} (h : x.pending = some w) :
    x.latch = { x with inputReg := w, output := w, pending := none } := by
  rw [DeviceChannel.latch, h]

theorem latch_get_of_no_pending (h : (d.get c).pending = none) : (Device.latch channels d).get c = d.get c := by
  cases hg : channels.get c with
  | false => exact latch_get_of_not_given hg
  | true => rw [latch_get_of_given hg, channelLatch_of_none h]

theorem channelLatch_eeprom (x : DeviceChannel) : x.latch.eeprom = x.eeprom := by
  cases h : x.pending with
  | none => rw [channelLatch_of_none h]
  | some w => rw [channelLatch_of_some h]

/-- The latch signal changes an output only to the pending value of a channel it is given to. -/
theorem latch_output_cases (hne : ((Device.latch channels d).get c).output ≠ (d.get c).output) :
    channels.get c = true ∧ ∃ w, (d.get c).pending = some w ∧ ((Device.latch channels d).get c).output = w := by
  cases hp : (d.get c).pending with
  | none => exact absurd (congrArg DeviceChannel.output (latch_get_of_no_pending hp)) hne
  | some w =>
    cases hg : channels.get c with
    | false => exact absurd (congrArg DeviceChannel.output (latch_get_of_not_given hg)) hne
    | true => exact ⟨rfl, w, rfl, by rw [latch_get_of_given hg, channelLatch_of_some hp]⟩

end

/-- Settles O55: the channel addressed is the one with the code in bits 2 to 1. -/
theorem sequentialWriteReachesOneChannel : Obligations.SequentialWriteReachesOneChannel := by
  unfold Obligations.SequentialWriteReachesOneChannel
  intro b0 b1 b2 s rest hb0 hin
  refine ⟨_, step_foreignFrame (receive_of_mask hb0 b1 b2) hin, fun c hc => ?others, fun c => sequentialWrite_eeprom, rfl,
    rfl, rfl⟩
  case others =>
    refine sequentialWrite_get_of_ne ?_
    rintro rfl
    exact hc (Channel.code_ofCode _)

/-- Settles O56: the two meanings of the latch bit, at the channel that the command byte addresses. -/
theorem writtenWordIsInEffectOrHeld : Obligations.WrittenWordIsInEffectOrHeld := by
  unfold Obligations.WrittenWordIsInEffectOrHeld
  intro chan u b0 b1 b2 s rest hb0 hchan hu hin
  have hg := receive_of_mask hb0 b1 b2
  rw [hchan, hu, Channel.ofCode_code] at hg
  exact ⟨_, step_foreignFrame hg hin, sequentialWrite_at_once, sequentialWrite_held⟩

/-- Settles O57: what the signal does depends on whether the channel is given it and on whether it holds a value. -/
theorem latchSignalAppliesHeldValues : Obligations.LatchSignalAppliesHeldValues := by
  unfold Obligations.LatchSignalAppliesHeldValues
  intro channels s rest hin
  refine ⟨_, step_latch hin, fun c => ⟨latch_get_of_not_given, fun w hg hp => ?applied, latch_get_of_no_pending, ?eeprom⟩⟩
  case applied =>
    rw [State.latchDevice_device, latch_get_of_given hg, channelLatch_of_some hp]
    exact ⟨rfl, rfl, rfl⟩
  case eeprom =>
    rw [State.latchDevice_device]
    cases hg : channels.get c with
    | false => rw [latch_get_of_not_given hg]
    | true => rw [latch_get_of_given hg, channelLatch_eeprom]

/-- Settles O60: each of the three inputs changes the device and the counter of free values only. -/
theorem deviceChangesAreNotReflectedInTheSession : Obligations.DeviceChangesAreNotReflectedInTheSession := by
  unfold Obligations.DeviceChangesAreNotReflectedInTheSession
  rintro frame channels s t rest (hin | hin | hin) h
  · rw [step_of_inputs hin] at h
    obtain ⟨g, -, rfl⟩ := receiveFrame_cases h
    exact ⟨rfl, rfl, rfl, rfl, rfl, rfl⟩
  · rw [step_powerUp hin] at h
    cases h
    exact ⟨rfl, rfl, rfl, rfl, rfl, rfl⟩
  · rw [step_latch hin] at h
    cases h
    exact ⟨rfl, rfl, rfl, rfl, rfl, rfl⟩

end Sys2Proof.Machine
end

section
/-! The causes of a change at an output (70_reset_and_hazards.md R142): from an answer to one of the session's two writes, or
from an input that reaches the device past the session. -/

namespace Sys2Proof.Machine

section

variable {s t : State} {c : Channel}

theorem classify_eq_sequentialWrite {b : Byte} {chan : Channel} {u : Bool} (h : classify b = .sequentialWrite chan u) :
    b.extractLsb' 1 2 = chan.code ∧ b.getLsbD 0 = u := by
  obtain rfl := swcmd_of_classify h
  exact ⟨swcmd_channel chan u, swcmd_latch chan u⟩

/-- A frame that changes an output is a sequential write to its channel, at once. -/
theorem receive_output_cases {frame : List Byte} {g : Nat → Device → Device} (hg : Device.receive frame = some g) {n : Nat}
    {d : Device} (hne : ((g n d).get c).output ≠ (d.get c).output) :
    ∃ b0 b1 b2, frame = [b0, b1, b2] ∧ b0.extractLsb' 1 2 = c.code ∧ b0.getLsbD 0 = Config.bit0OneMeansImmediate ∧
      ((g n d).get c).output = b1 ++ b2 := by
  rcases receive_cases hg with ⟨b0, b1, b2, chan, u, rfl, hcmd, rfl⟩ | ⟨-, words, rfl⟩
  · obtain ⟨hchan, hu⟩ := classify_eq_sequentialWrite hcmd
    rw [sequentialWrite_output] at hne ⊢
    by_cases hc : c = chan ∧ u = Config.bit0OneMeansImmediate
    · obtain ⟨rfl, rfl⟩ := hc
      exact ⟨b0, b1, b2, rfl, hchan, hu, if_pos ⟨rfl, rfl⟩⟩
    · rw [if_neg hc] at hne
      exact absurd rfl hne
  · exact absurd (eepromCommit_output words n d c) hne

theorem deviceTakes_output_cases {frame : List Byte}
    (hne : ((s.deviceTakes frame).device.get c).output ≠ (s.device.get c).output) :
    ∃ b0 b1 b2, frame = [b0, b1, b2] ∧ b0.extractLsb' 1 2 = c.code ∧ b0.getLsbD 0 = Config.bit0OneMeansImmediate ∧
      ((s.deviceTakes frame).device.get c).output = b1 ++ b2 := by
  rcases deviceTakes_cases (s := s) frame with ⟨g, hg, he⟩ | he <;> rw [he] at hne ⊢
  · exact receive_output_cases hg hne
  · exact absurd rfl hne

/-- An answer changes an output by the success of a `setChannel` write at once, or by a failed write. -/
theorem takeAnswer_output_cases {a : Answer} (hs : s.session.activityOk) (h : takeAnswer a s = .next t)
    (hne : (t.device.get c).output ≠ (s.device.get c).output) :
    (∃ conn chan x b0 b1 b2, a = .written ∧ s.session.activity = .settingChannel conn chan x [b0, b1, b2] ∧
      b0.extractLsb' 1 2 = c.code ∧ b0.getLsbD 0 = Config.bit0OneMeansImmediate ∧
      (t.device.get c).output = b1 ++ b2) ∨
    (a = .transportError ∧ ((∃ conn x frame, s.session.activity = .settingChannel conn c x frame) ∨
      ∃ conn frame, s.session.activity = .saveWriting conn frame)) := by
  rcases takeAnswer_cases h with ⟨address, bus, -, ha⟩ | ⟨conn, -, ha⟩ | ⟨conn, chan, x, frame, hA, ha⟩ | ⟨conn, -, ha⟩ |
    ⟨conn, frame, hA, ha⟩
  · rcases answerOpening_cases ha with ⟨handle, -, rfl⟩ | ⟨-, rfl⟩ <;> exact absurd rfl hne
  · rcases answerSeeding_cases ha with ⟨bytes, s', hd, rfl⟩ | ⟨-, rfl⟩
    · refine absurd ?_ hne
      simp only [State.finish_device, seedCache_frame, State.driveBuffer_device, State.record_device,
        delivery_output hd]
    · exact absurd rfl hne
  · rcases answerSettingChannel_cases ha with ⟨rfl, rfl⟩ | ⟨rfl, rfl⟩
    · obtain ⟨b0, b1, b2, rfl, hchan, hu, hout⟩ :=
        deviceTakes_output_cases (s := s.record (.write conn frame) true) hne
      exact .inl ⟨conn, chan, x, b0, b1, b2, rfl, hA, hchan, hu, hout⟩
    · obtain rfl : chan = c := by
        by_contra hc
        exact hne (congrArg DeviceChannel.output (failedWrite_get_of_ne (Ne.symm hc)))
      exact .inr ⟨rfl, .inl ⟨conn, x, frame, hA⟩⟩
  · rcases answerSaveReading_cases ha with ⟨bytes, s', hd, rfl⟩ | ⟨-, rfl⟩
    · refine absurd ?_ hne
      simp only [commitRead_device, State.driveBuffer_device, State.record_device, delivery_output hd]
    · exact absurd rfl hne
  · rcases answerSaveWriting_cases ha with ⟨rfl, rfl⟩ | ⟨rfl, rfl⟩
    · obtain ⟨b0, b1, b2, rfl, -, -, -⟩ := deviceTakes_output_cases (s := s.record (.write conn frame) true) hne
      have hee : isEeFrame [b0, b1, b2] = true := by
        simp only [Session.activityOk, hA] at hs
        exact hs.2.1
      cases hee
    · exact .inr ⟨rfl, .inr ⟨conn, frame, hA⟩⟩

end

/-- Settles O58: of the inputs only an answer, the latch signal, a power-up and a frame change an output. The invariant gives
that `saveToEeprom` waits for the write of a 9-byte frame, which leaves the outputs. -/
theorem outputChangesOnlyForACause : Obligations.OutputChangesOnlyForACause := by
  unfold Obligations.OutputChangesOnlyForACause
  intro c s t hs h hne
  obtain ⟨y, rest, hin, hy⟩ := step_cases h
  rcases takeInput_cases hy with ⟨i, -, he⟩ | ⟨bytes, -, rfl⟩ | ⟨op, position, -, rfl⟩ | ⟨op, -, hp⟩ | ⟨k, -, hk⟩ |
    ⟨a, rfl, ha⟩ | ⟨channels, rfl, rfl⟩ | ⟨rfl, rfl⟩ | ⟨frame, g, rfl, hg, rfl⟩
  · obtain ⟨o, rfl⟩ := exec_next_eq he
    exact absurd rfl hne
  · exact absurd rfl hne
  · exact absurd rfl hne
  · obtain ⟨frame, z, -, rfl⟩ := presentFrame_cases hp
    exact absurd rfl hne
  · obtain ⟨-, -, -, -, hdevice⟩ := startCall_frame hk
    rw [hdevice] at hne
    exact absurd rfl hne
  · rcases takeAnswer_output_cases (s := { s with inputs := rest }) hs.activity ha hne with ⟨conn, chan, x, b0, b1, b2, rfl, hA, hchan, hu, hout⟩ |
      ⟨rfl, hA⟩
    · exact .inr (.inr (.inl ⟨b0, b1, b2, rest, .inr ⟨hin, conn, chan, x, hA⟩, hchan, hu, hout⟩))
    · exact .inr (.inr (.inr ⟨rest, hin, hA⟩))
  · obtain ⟨hgiven, w, hpending, hout⟩ := latch_output_cases hne
    exact .inl ⟨channels, rest, w, hin, hgiven, hpending, hout⟩
  · exact .inr (.inl ⟨rest, hin, powerUp_output⟩)
  · obtain ⟨b0, b1, b2, rfl, hchan, hu, hout⟩ := receive_output_cases hg hne
    exact .inr (.inr (.inl ⟨b0, b1, b2, rest, .inl hin, hchan, hu, hout⟩))

end Sys2Proof.Machine
end

section
/-! The procedures' successes (70_reset_and_hazards.md R134 to R136; 43_encode_eeprom_commit.md R106): what `open` caches,
what `setChannel` writes and what `saveToEeprom` copies. -/

namespace Sys2Proof.Machine

section

variable {s : State} {m : Memory}

/-- A cache entry is seeded with the fields of the channel's word (70 R134 step 4). -/
theorem seedCache_entry (h : m.len = 24) (c : Channel) : ∃ entry, (seedCache m s).session.cache.get c = some entry ∧
    entry.value < 4096 ∧
    entry.value + 2 ^ 12 * entry.gain.code.toNat + 2 ^ 13 * entry.pd.code.toNat + 2 ^ 15 * entry.ref.code.toNat =
      (wordOfBytes (m.byteAt (6 * c.code.toNat + 1)) (m.byteAt (6 * c.code.toNat + 2))).toNat := by
  refine ⟨_, seedCache_of_full h c, BitVec.isLt _, ?_⟩
  have hword := fieldsWord_toNat (decodeWord (m.byteAt (6 * c.code.toNat + 1)) (m.byteAt (6 * c.code.toNat + 2)))
  rw [decodeWord_eq, fieldsWord_wordFields] at hword
  rw [decodeWord_eq, hword]
  dsimp only
  omega

/-- The word of a channel in the read-back that the device delivers is its input register (20_memory.md R33). -/
theorem readBack_refreshed_word (n : Nat) (d : Device) (c : Channel) :
    wordOfBytes ((Memory.ofBytes (Device.readBack n (Device.refreshHeaders n d))).byteAt (6 * c.code.toNat + 1))
      ((Memory.ofBytes (Device.readBack n (Device.refreshHeaders n d))).byteAt (6 * c.code.toNat + 2)) =
      (d.get c).inputReg := by
  rw [Memory.byteAt_ofBytes, Memory.byteAt_ofBytes, readBack_word, refreshHeaders_inputReg]

/-- A delivered full read ends `open` with a cache entry for every channel, whatever state the read left. -/
theorem seeding_finishes (conn : Connection) (hlen : m.len = 24) {word : Channel → SettingsWord}
    (hword : ∀ c, wordOfBytes (m.byteAt (6 * c.code.toNat + 1)) (m.byteAt (6 * c.code.toNat + 2)) = word c) (t : State)
    (ht : t = (seedCache m ((s.record (.read conn 24) true).driveBuffer m)).finish .success) :
    t.session.result = some .success ∧ t.session.activity = .idle ∧ t.session.link = s.session.link ∧
      t.session.trace = s.session.trace ++ [⟨.read conn 24, true⟩] ∧
      ∀ c, ∃ entry, t.session.cache.get c = some entry ∧ entry.value < 4096 ∧
        entry.value + 2 ^ 12 * entry.gain.code.toNat + 2 ^ 13 * entry.pd.code.toNat + 2 ^ 15 * entry.ref.code.toNat =
          (word c).toNat := by
  subst ht
  refine ⟨rfl, rfl, ?link, ?trace, fun c => ?entry⟩
  case link => simp only [State.finish_link, seedCache_frame, State.driveBuffer_session, State.record_link]
  case trace => simp only [State.finish_trace, seedCache_frame, State.driveBuffer_session, State.record_trace]
  case entry =>
    rw [← hword c]
    exact seedCache_entry hlen c

end

/-- Settles O46: both answers deliver 24 bytes in which each channel's word is the one named. -/
theorem seedingFillsTheCache : Obligations.SeedingFillsTheCache := by
  unfold Obligations.SeedingFillsTheCache
  rintro a conn word s rest hA hin (⟨bytes, rfl, hlen, hword⟩ | ⟨rfl, hword⟩)
  · refine ⟨_, step_seeding_delivered hA hin, seeding_finishes (s := { s with inputs := rest }) conn hlen (fun c => ?_) _ rfl⟩
    obtain ⟨hi, lo, hhi, hlo, hc⟩ := hword c
    rw [hc, Memory.byteAt_ofBytes, Memory.byteAt_ofBytes, List.getD_eq_getElem?_getD, List.getD_eq_getElem?_getD, hhi, hlo]
    rfl
  · refine ⟨_, step_seeding_deviceRead hA hin, seeding_finishes
      (s := ({ s with inputs := rest } : State).changeDevice Device.refreshHeaders) conn (readBack_length _ _)
      (fun c => ?_) _ rfl⟩
    rw [readBack_refreshed_word, hword c]

/-- Settles O49: COMMIT refuses the buffer, so no write is issued. -/
theorem wrongLengthSaveReadWritesNothing : Obligations.WrongLengthSaveReadWritesNothing := by
  unfold Obligations.WrongLengthSaveReadWritesNothing
  intro bytes conn s rest hlen hA hin
  exact ⟨_, step_saveReading_refused hA hlen hin, rfl, rfl, rfl, rfl⟩

/-- Settles O53: the words that COMMIT takes from the device's read-back are its input registers. -/
theorem saveCopiesInputRegistersToEeprom : Obligations.SaveCopiesInputRegistersToEeprom := by
  unfold Obligations.SaveCopiesInputRegistersToEeprom
  intro conn s rest hA hin
  have hlen := readBack_length s.fresh (Device.refreshHeaders s.fresh s.device)
  obtain ⟨frame, hcommit, -⟩ :=
    commitFrame_ok_of_full (m := .ofBytes (Device.readBack s.fresh (Device.refreshHeaders s.fresh s.device))) hlen
  have hread := step_saveReading_deviceRead hA hin
  rw [commitRead, hcommit] at hread
  refine ⟨_, _, hread, step_saveWriting_written (State.begin_activity _ _) rfl, rfl, fun c => ?_⟩
  rw [deviceTakes_of_receive (receive_commitFrame hlen hcommit), State.finish_device, State.changeDevice_device,
    eepromCommit_eeprom, eepromCommit_inputReg, PerChannel.get_tabulate, readBack_refreshed_word]
  exact ⟨rfl, refreshHeaders_inputReg _ _ _⟩

/-- The success of `setChannel`'s write, with what the device takes of its frame (70 R135 steps 3, 4). -/
theorem step_settingChannel_taken {s : State} {rest : List Input} {conn : Connection} {c : Channel} {x : Setting}
    (hA : s.session.activity = .settingChannel conn c x (settingFrame c x)) (hin : s.inputs = .answer .written :: rest) :
    step s = .next ((((({ s with inputs := rest } : State).record (.write conn (settingFrame c x)) true).changeDevice
      (Device.sequentialWrite c (udacOrDefault x.udac)
        (fieldsWord ⟨x.ref, x.pd, x.gain, BitVec.ofNat 12 x.value⟩))).cacheEntry c ⟨x.value, x.ref, x.pd, x.gain⟩).finish
          .success) := by
  rw [step_settingChannel_written hA hin, deviceTakes_settingFrame]

/-- Settles O47: the frame issued is ENCSW's, and the device takes it as a sequential write of the setting's word to its
channel; a failed write leaves the channel's registers open, but not its EEPROM word nor another channel. -/
theorem setChannelWritesTheFrameAndCachesOnSuccess : Obligations.SetChannelWritesTheFrameAndCachesOnSuccess := by
  unfold Obligations.SetChannelWritesTheFrameAndCachesOnSuccess
  intro chan x s rest conn a hidle hlink ha hin
  have hframe := swFrame_eq chan x.value x.ref x.pd x.gain (udacOrDefault x.udac)
  have hword := wordOfBytes_high_low (fieldsWord ⟨x.ref, x.pd, x.gain, BitVec.ofNat 12 x.value⟩)
  rcases ha with rfl | rfl
  · refine ⟨_, _, _, _, _, _, exec_encsw_pattern .., rfl, step_setChannel hidle hlink hin, rfl, rfl, rfl,
      step_settingChannel_taken (State.begin_activity _ _) rfl, rfl, hlink, ?trace,
      fun d hd => sequentialWrite_get_of_ne hd, fun d => sequentialWrite_eeprom,
      fun _ => ⟨rfl, rfl, fun hu => ?inEffect, fun hu => ?pending⟩, nofun⟩
    case trace => exact congrArg (fun frame => s.session.trace ++ [⟨.write conn frame, true⟩]) hframe
    case inEffect => exact (sequentialWrite_at_once hu).imp (·.trans hword.symm) (·.trans hword.symm)
    case pending => exact (sequentialWrite_held hu).imp_left (·.trans (congrArg some hword.symm))
  · refine ⟨_, _, _, _, _, _, exec_encsw_pattern .., rfl, step_setChannel hidle hlink hin, rfl, rfl, rfl,
      step_settingChannel_failed (State.begin_activity _ _) rfl, rfl, hlink, ?trace,
      fun d hd => failedWrite_get_of_ne hd, fun d => failedWrite_eeprom, nofun, fun _ => ⟨rfl, rfl⟩⟩
    case trace => exact congrArg (fun frame => s.session.trace ++ [⟨.write conn frame, false⟩]) hframe

end Sys2Proof.Machine
end
